-- ==== Sys2Proof/Word.lean ====
section
/-!
DEFINITION. The words of the part (Introduction 6.1) and fixed-size families of like things: four sensor links
and slots, eight boards, two ports. Plain data, so that a state can be compared and written out.
-/
namespace Sys2Proof

/-- A byte of the supervisory ports. -/
abbrev Byte := BitVec 8
/-- A word: 16 bits (Introduction 6.1). -/
abbrev Word := BitVec 16
/-- A counter, and the cycle number: 32 bits (Introduction 6.1, R13, R22). -/
abbrev Counter := BitVec 32
/-- A timebase stamp: 48 bits (R3). -/
abbrev Stamp := BitVec 48

/-- Sensor links and slots are numbered 0 to 3, slot n after link n (Introduction 5). -/
abbrev LinkId := Fin 4
/-- Drive boards are numbered 0 to 7 (Introduction 5). -/
abbrev BoardId := Fin 8

/-- The two supervisory ports (Chapter 11). -/
inductive PortId where
  | A | B
  deriving DecidableEq, Repr

/-- The other port. -/
def PortId.other : PortId → PortId
  | .A => .B
  | .B => .A

/-- One thing for each of the four links or slots. -/
structure Quad (α : Type) where
  q0 : α
  q1 : α
  q2 : α
  q3 : α
  deriving DecidableEq, Repr

/-- The thing of link or slot `i`. -/
def Quad.get {α : Type} (q : Quad α) (i : LinkId) : α :=
  match i with
  | 0 => q.q0
  | 1 => q.q1
  | 2 => q.q2
  | 3 => q.q3

/-- `q` with `x` for link or slot `i`. -/
def Quad.set {α : Type} (q : Quad α) (i : LinkId) (x : α) : Quad α :=
  match i with
  | 0 => { q with q0 := x }
  | 1 => { q with q1 := x }
  | 2 => { q with q2 := x }
  | 3 => { q with q3 := x }

/-- The family whose member `i` is `f i`. -/
def Quad.tabulate {α : Type} (f : LinkId → α) : Quad α := ⟨f 0, f 1, f 2, f 3⟩

/-- The same thing for each of the four. -/
def Quad.fill {α : Type} (x : α) : Quad α := ⟨x, x, x, x⟩

/-- `f` applied to each of the four. -/
def Quad.map {α β : Type} (f : α → β) (q : Quad α) : Quad β := ⟨f q.q0, f q.q1, f q.q2, f q.q3⟩

/-- The four in ascending number. -/
def Quad.toList {α : Type} (q : Quad α) : List α := [q.q0, q.q1, q.q2, q.q3]

/-- The four links in ascending number. -/
def links : List LinkId := [0, 1, 2, 3]

/-- One thing for each of the eight boards. -/
structure Octet (α : Type) where
  o0 : α
  o1 : α
  o2 : α
  o3 : α
  o4 : α
  o5 : α
  o6 : α
  o7 : α
  deriving DecidableEq, Repr

/-- The thing of board `i`. -/
def Octet.get {α : Type} (q : Octet α) (i : BoardId) : α :=
  match i with
  | 0 => q.o0
  | 1 => q.o1
  | 2 => q.o2
  | 3 => q.o3
  | 4 => q.o4
  | 5 => q.o5
  | 6 => q.o6
  | 7 => q.o7

/-- `q` with `x` for board `i`. -/
def Octet.set {α : Type} (q : Octet α) (i : BoardId) (x : α) : Octet α :=
  match i with
  | 0 => { q with o0 := x }
  | 1 => { q with o1 := x }
  | 2 => { q with o2 := x }
  | 3 => { q with o3 := x }
  | 4 => { q with o4 := x }
  | 5 => { q with o5 := x }
  | 6 => { q with o6 := x }
  | 7 => { q with o7 := x }

/-- The same thing for each board. -/
def Octet.fill {α : Type} (x : α) : Octet α := ⟨x, x, x, x, x, x, x, x⟩

/-- The eight in ascending board number. -/
def Octet.toList {α : Type} (q : Octet α) : List α := [q.o0, q.o1, q.o2, q.o3, q.o4, q.o5, q.o6, q.o7]

/-- One thing for each port. -/
structure Pair (α : Type) where
  pA : α
  pB : α
  deriving DecidableEq, Repr

/-- The thing of port `p`. -/
def Pair.get {α : Type} (q : Pair α) : PortId → α
  | .A => q.pA
  | .B => q.pB

/-- `q` with `x` for port `p`. -/
def Pair.set {α : Type} (q : Pair α) (p : PortId) (x : α) : Pair α :=
  match p with
  | .A => { q with pA := x }
  | .B => { q with pB := x }

/-- `f` applied to both. -/
def Pair.map {α β : Type} (f : α → β) (q : Pair α) : Pair β := ⟨f q.pA, f q.pB⟩

end Sys2Proof
end

