-- ==== Sys2Proof/Syntax.lean ====
section
/-!
DEFINITION. The commands of the part: one constructor of `Instr` for each row of spec/opcode_table.json. The table
gives the rows no bits and no fields, so each operand is what the row's rule names: the link a symbol is taken on,
the word it carries, the port a byte or a command record is taken at, and, for the commands of the masters, the raw
parameter fields of the record in the widths of R201. Values out of range are expressible on purpose: the checks of
the owners (R177) are part of the machine.
-/
namespace Sys2Proof

/-- The geometry fields of one slot in SET GEOMETRY (R201): enabled, tag, slope count. -/
structure SlotGeometryParams where
  enabled : Byte
  tag : Byte
  slopeCount : Word
  deriving DecidableEq, Repr

/-- The parameters of SET GEOMETRY (R48, R201). -/
structure GeometryParams where
  actuatorCount : Word
  slots : Quad SlotGeometryParams
  deriving DecidableEq, Repr

/-- The parameters of SET TIMING (R4, R201). -/
structure TimingParams where
  mode : Byte
  leadSlot : Byte
  edge : Byte
  filter : Byte
  delay : Word
  period : Word
  deadline : Word
  queue : Byte
  fallback : Word
  deriving DecidableEq, Repr

/-- The parameters of SET SLOT (R50, R201). -/
structure SlotParams where
  slot : Byte
  divisor : Byte
  phase : Byte
  latePolicy : Byte
  holdLimit : Byte
  outOfCycle : Byte
  lossAction : Byte
  deriving DecidableEq, Repr

/-- The parameters of SET MIRROR (R143, R201). -/
structure MirrorParams where
  readyTimeout : Word
  ackTimeout : Word
  gap : Byte
  faultLimit : Byte
  deriving DecidableEq, Repr

/-- The parameters of SET CAPTURE (R188, R201). -/
structure CaptureParams where
  pattern : Byte
  content : Byte
  first : Word
  second : Word
  mask : BitVec 32
  deriving DecidableEq, Repr

/-- The parameters of SET OFFLOAD (R194, R201). -/
structure OffloadParams where
  window : Word
  mask : Byte
  deriving DecidableEq, Repr

/-- The parameters of LOAD (R161, R201). -/
structure LoadParams where
  store : Byte
  first : BitVec 32
  count : Word
  words : List Word
  deriving DecidableEq, Repr

/-- The parameters of READ BACK (R163, R201). -/
structure ReadBackParams where
  store : Byte
  copy : Byte
  first : BitVec 32
  count : Word
  deriving DecidableEq, Repr

/-- The commands of the part, one constructor for each row of the opcode table, in the table's order. The rows from
`unknownCommand` to `resetPart` but `loadWordWrite` are each the event in which a complete command record of that kind
is taken at a port (R174, R175). -/
inductive Instr where
  | powerOnReset
  | linkStartSymbol (l : LinkId)
  | linkDataSymbol (l : LinkId) (w : Word)
  | linkEndSymbol (l : LinkId)
  | linkFillSymbol (l : LinkId)
  | linkInvalidSymbol (l : LinkId)
  | timingLineChange
  | lineFilterExpiry
  | lineDelayExpiry
  | periodExpiry
  | fallbackExpiry
  | deadlineExpiry
  | groupOperationEnd
  | closeComputationEnd
  | addressSent
  | boardReady
  | boardBusy
  | readyTimeout
  | blockSent
  | boardAck
  | boardNak
  | ackTimeout
  | gapEnd
  | telemetryGo
  | telemetryHold
  | telemetrySymbolSent
  | portSelect (p : PortId)
  | transactionByte (p : PortId) (b : Byte)
  | commandByte (p : PortId) (b : Byte)
  | resultByte (p : PortId)
  | portDeselect (p : PortId)
  | unknownCommand (p : PortId) (code : Byte)
  | getStatus (p : PortId)
  | readCounters (p : PortId) (clear : Byte)
  | setGeometry (p : PortId) (x : GeometryParams)
  | setTiming (p : PortId) (x : TimingParams)
  | setSlot (p : PortId) (x : SlotParams)
  | setMirror (p : PortId) (x : MirrorParams)
  | setProbe (p : PortId) (mode : Byte)
  | setCapture (p : PortId) (x : CaptureParams)
  | setOffload (p : PortId) (x : OffloadParams)
  | load (p : PortId) (x : LoadParams)
  | loadWordWrite
  | readBack (p : PortId) (x : ReadBackParams)
  | apply (p : PortId) (selection : Word)
  | loopStart (p : PortId)
  | loopClose (p : PortId)
  | loopFreeze (p : PortId)
  | loopOpen (p : PortId)
  | loopStop (p : PortId)
  | readOffload (p : PortId)
  | senseEvent (p : PortId)
  | resetPart (p : PortId)
  | timebaseTick
  | resetEnd
  deriving DecidableEq, Repr

end Sys2Proof
end

