-- ==== Sys2Proof/Decode.lean ====
section
/-!
DEFINITION. Decoding. No row of spec/opcode_table.json gives a command any bits (the part has no instruction words:
its commands are events at its interfaces), so no word spells a command. Log 2.
-/
namespace Sys2Proof

/-- The command that a word spells by the table's bits: none of the rows gives bits. -/
def decodeTableWord (_nbits _w : Nat) : Option Instr := none

end Sys2Proof
end

