-- ==== Sys2Proof/Config.lean ====
section
/-!
DEFINITION. The fixed sizes and thresholds of the part, each named by the rule that states it. The manual leaves
no value to an implementation and no result open, so there is no free value here.
-/
namespace Sys2Proof.Config

/-- Consecutive valid symbols that declare lock (R26). -/
def lockSymbols : Nat := 64
/-- Symbols watched for loss of lock while locked (R26). -/
def lossWindow : Nat := 16
/-- Invalid symbols in the window at which lock is lost (R26). -/
def lossCount : Nat := 4
/-- Slopes in a slope group (R33). -/
def groupSize : Nat := 32
/-- Groups a staging FIFO holds over all its entries (2.5, R33). -/
def fifoGroups : Nat := 64
/-- Occupancy at which the return path changes to HOLD (R34). -/
def holdAt : Nat := 48
/-- Occupancy at which the return path changes to GO (R34). -/
def goAt : Nat := 32
/-- Entries of a contribution, of U and of D (R65, R84). -/
def actuators : Nat := 1024
/-- Entries of the residual capture buffer (R65). -/
def slopes : Nat := 2048
/-- Words of one MATRIX row (R73). -/
def matrixStride : Nat := 1024
/-- Actuators served by one board (Introduction 5). -/
def boardActuators : Nat := 128
/-- Busy extensions of one board in one writeout (R147). -/
def busyExtensions : Nat := 7
/-- Records an event queue holds (R171, R180). -/
def queueDepth : Nat := 16
/-- Words the telemetry FIFO holds (R187, R191). -/
def telemetryWords : Nat := 65536
/-- Words of a telemetry record's header (R190). -/
def headerWords : Nat := 24
/-- Words one LOAD or READ BACK may name (R161, R163). -/
def transferWords : Nat := 4096
/-- Entries of the NEIGHBOURS list (R105). -/
def neighbourEntries : Nat := 2048
/-- Entries of one probe slot (R133). -/
def probeEntries : Nat := 64
/-- Words of one probe slot in the PROBES store (8.3). -/
def probeSlotWords : Nat := 129
/-- The largest hold age (R56). -/
def maxAge : Nat := 16
/-- The value at which a consecutive fault count and an additional-cause count stop (R124, R142). -/
def maxByteCount : Nat := 255

end Sys2Proof.Config
end

