-- ==== Sys2Proof/Machine/State.lean ====
section
/-!
DEFINITION. The state of the part, block by block (Introduction 3), as plain data, and the state after power-on reset.
Every array of words (a store, U, D, a contribution, the residual capture buffer) is a list of (index, value) pairs in
one canonical form: indices strictly rising, none equal to what an unlisted index reads as (see Machine/Ops.lean).
-/
namespace Sys2Proof.Machine

/-- No command of the part ends in a fault: the manual names no behaviour that stops the part, and what it calls a
refusal, an abandonment, a FAULTED board or a trip are next states. Nobody raises a fault; that is safe. -/
inductive Fault where
  deriving DecidableEq, Repr

/-- A command without a meaning. -/
inductive Refusal where
  /-- Raised by an arm of `exec` whose command has no meaning yet; safe. No arm does. -/
  | notModelled (mnemonic : String)
  deriving DecidableEq, Repr

/-- An array of words of width `w`, by index. -/
abbrev Cells (w : Nat) := List (Nat × BitVec w)

/-- A running timer: the time units left to its expiry, 0 when the expiry is due (log 3); `none` is a stopped timer. -/
abbrev Timer := Option Word

/-! ## Settings: the values of the SET commands (Chapters 1, 3, 5, 8, 9, 12) -/

/-- Trigger modes (R4). -/
inductive TriggerMode where
  | lead | line | timer
  deriving DecidableEq, Repr

/-- Line edge settings (R4). -/
inductive LineEdge where
  | rising | falling
  deriving DecidableEq, Repr

/-- Line filter settings: OFF, 2, 10, 50 or 200 time units (R4). -/
inductive LineFilter where
  | off | f2 | f10 | f50 | f200
  deriving DecidableEq, Repr

/-- The nine timing settings (R4). -/
structure TimingSettings where
  mode : TriggerMode
  leadSlot : LinkId
  edge : LineEdge
  filter : LineFilter
  delay : Word
  period : Word
  deadline : Word
  queue : Bool
  fallback : Word
  deriving DecidableEq, Repr

/-- Late policies (R47). -/
inductive LatePolicy where
  | hold | zero
  deriving DecidableEq, Repr

/-- Out-of-cycle policies (R32, R47). -/
inductive OutOfCycle where
  | queue | drop
  deriving DecidableEq, Repr

/-- Loss actions (R47). -/
inductive LossAction where
  | ignore | trip
  deriving DecidableEq, Repr

/-- The policy part of a slot record (R47). -/
structure SlotPolicy where
  divisor : Nat
  phase : Nat
  late : LatePolicy
  holdLimit : Nat
  outOfCycle : OutOfCycle
  lossAction : LossAction
  deriving DecidableEq, Repr

/-- A slot's fields of the slot table in force: geometry and policy (R47). -/
structure SlotTableEntry where
  enabled : Bool
  tag : Byte
  slopeCount : Nat
  policy : SlotPolicy
  deriving DecidableEq, Repr

/-- Probe modes: OFF, or ON with a slot count (R131). -/
inductive ProbeMode where
  | off
  | on (k : Nat)
  deriving DecidableEq, Repr

/-- The settings of SET MIRROR (R143). -/
structure MirrorSettings where
  readyTimeout : Word
  ackTimeout : Word
  gap : Byte
  faultLimit : Nat
  deriving DecidableEq, Repr

/-- Capture patterns (R188). -/
inductive CapturePattern where
  | off
  | every (n : Nat)
  | burst (m t : Nat)
  | mask (period : Nat) (bits : BitVec 32)
  deriving DecidableEq, Repr

/-- Capture settings: pattern and content (R188). -/
structure CaptureSettings where
  pattern : CapturePattern
  drive : Bool
  residual : Bool
  deriving DecidableEq, Repr

/-- Offload settings: window W and mode mask (R194). -/
structure OffloadSettings where
  window : Nat
  mask : BitVec 4
  deriving DecidableEq, Repr

/-- Every setting in force, which a cycle record copies at the open (R21): the values of SET GEOMETRY and SET SLOT, SET
TIMING, SET PROBE, SET MIRROR, SET CAPTURE and SET OFFLOAD. -/
structure SettingsInForce where
  actuatorCount : Nat
  slots : Quad SlotTableEntry
  timing : TimingSettings
  probe : ProbeMode
  mirror : MirrorSettings
  capture : CaptureSettings
  offload : OffloadSettings
  deriving DecidableEq, Repr

/-! ## The loop (Chapters 1, 3, 7) -/

/-- Loop states (7.1). `opened` is OPEN. -/
inductive LoopState where
  | idle | opened | closed | frozen
  deriving DecidableEq, Repr

/-- Cycle manager states (1.1). -/
inductive ManagerState where
  | idle | armed | gathering | closing
  deriving DecidableEq, Repr

/-- Open causes (R13, R21). -/
inductive OpenCause where
  | lead | line | timer | fallback
  deriving DecidableEq, Repr

/-- The causes a trigger in the latch can have (R11). -/
inductive LatchedCause where
  | line | timer
  deriving DecidableEq, Repr

/-- Close causes (R18, R19). -/
inductive CloseCause where
  | complete | deadline
  deriving DecidableEq, Repr

/-- Attach status of an expected slot (1.6). An attached frame carries the two reports that arrival needs (R16):
the receiver's verification and the engine's last-group report. -/
inductive AttachStatus where
  | waiting
  | attached (verified lastGroup : Bool)
  | arrived
  | abandoned
  deriving DecidableEq, Repr

/-- The selection of a slot at close (R53). -/
inductive Selection where
  | fresh | held | zeroed | notExpected | muted
  deriving DecidableEq, Repr

/-- Outcome of a board in a writeout (R153). -/
inductive BoardOutcome where
  | notWritten | acked | naked | noAck | noReady
  deriving DecidableEq, Repr

/-- A writeout report (R153). The ack mask is `WriteoutReport.ackMask`; `skipped` tells SKIPPED from SENT. -/
structure WriteoutReport where
  cycle : Counter
  outcomes : Octet BoardOutcome
  skipped : Bool
  deriving DecidableEq, Repr

/-- The fields of the cycle record written at the open (R13, R21), with the copy of every setting in force that R21 makes
beside the loop state and the generation. -/
structure OpenInfo where
  cycle : Counter
  cause : OpenCause
  lateStart : Bool
  time : Stamp
  loop : LoopState
  generation : Word
  settings : SettingsInForce
  deriving DecidableEq, Repr

/-- The fields written at the close and at the start of the close computation (R19, R21, R136, R153). -/
structure CloseInfo where
  cause : CloseCause
  time : Stamp
  selections : Quad Selection
  ages : Quad Nat
  sequences : Quad Word
  probePosition : Option Nat
  previous : Option WriteoutReport
  deriving DecidableEq, Repr

/-- The counts written when the close computation ends (R99, R111). -/
structure CloseCounts where
  limited : Nat
  adjustments : Nat
  residual : Nat
  deriving DecidableEq, Repr

/-- The open cycle record: its open fields, the attach status of each slot (`none` for a slot that is not expected)
and, once the cycle is closed, its close fields (R13, R15, R19). -/
structure OpenRecord where
  opened : OpenInfo
  statuses : Quad (Option AttachStatus)
  closing : Option CloseInfo
  deriving DecidableEq, Repr

/-- A completed cycle record (R20, R21). -/
structure CycleRecord where
  opened : OpenInfo
  close : CloseInfo
  counts : CloseCounts
  deriving DecidableEq, Repr

/-- The counters of the cycle manager (R22). -/
structure ManagerCounters where
  deadlineCloses : Counter
  droppedTriggers : Counter
  lateStarts : Counter
  lineOverlaps : Counter
  fallbackOpens : Counter
  deriving DecidableEq, Repr

/-- The cycle manager (Chapter 1). -/
structure Manager where
  state : ManagerState
  timebase : Stamp
  cycle : Counter
  settings : TimingSettings
  held : Option TimingSettings
  latch : Option LatchedCause
  lineDelay : Timer
  period : Timer
  deadline : Timer
  fallback : Timer
  openRecord : Option OpenRecord
  lastRecord : Option CycleRecord
  counters : ManagerCounters
  deriving DecidableEq, Repr

/-- The timing line input (R8): raw level, filtered level, and the filter's measurement of a change. -/
structure TimingLine where
  raw : Bool
  filtered : Bool
  measuring : Timer
  deriving DecidableEq, Repr

/-! ## Link receivers (Chapter 2) -/

/-- The decoder (R26): unlocked with its count of consecutive valid symbols, or locked with the marks of the latest
symbols (newest first, at most 16, `true` for an invalid one) and whether a good frame has ended since lock (R27). -/
inductive Decoder where
  | unlocked (valid : Nat)
  | locked (window : List Bool) (good : Bool)
  deriving DecidableEq, Repr

/-- Link states (R27). -/
inductive LinkState where
  | down | locked | up
  deriving DecidableEq, Repr

/-- A frame in reception (R28 to R33): words taken since START, the running CRC, the three header words, the CRC word
once taken, the slopes of the incomplete group, and the slot's tag and slope count in force at its START (R30). -/
structure RxFrame where
  taken : Nat
  crc : Word
  word0 : Word
  sequence : Word
  word2 : Word
  crcWord : Word
  slopes : List Word
  tag : Byte
  slopeCount : Nat
  deriving DecidableEq, Repr

/-- Frame reception (2.3). `off` is the absence of a state while the decoder is unlocked. -/
inductive Reception where
  | off
  | between
  | header (f : RxFrame)
  | storing (f : RxFrame)
  | discarding (f : RxFrame)
  | draining
  deriving DecidableEq, Repr

/-- A frame entry of the staging FIFO (2.5): its sequence, whether it is attached, whether its END is verified, its
completed groups not yet taken, oldest first, and the number of its groups already taken by the engine. -/
structure FifoEntry where
  sequence : Word
  attached : Bool
  verified : Bool
  groups : List (List Word)
  taken : Nat
  deriving DecidableEq, Repr

/-- The flow symbols of a sensor link's return path (R34) and of the telemetry return line (R192). -/
inductive Flow where
  | go | hold
  deriving DecidableEq, Repr

/-- The counters of a receiver (R44). -/
structure ReceiverCounters where
  good : Counter
  framing : Counter
  lock : Counter
  crc : Counter
  overrun : Counter
  deadline : Counter
  rejectedKind : Counter
  rejectedTag : Counter
  rejectedLength : Counter
  dropped : Counter
  sequenceBreaks : Counter
  notices : Counter
  deriving DecidableEq, Repr

/-- One link receiver (Chapter 2). -/
structure Receiver where
  decoder : Decoder
  reception : Reception
  fifo : List FifoEntry
  flow : Flow
  receivedSeq : Word
  attachedSeq : Word
  lastGoodSeq : Word
  primed : Bool
  counters : ReceiverCounters
  deriving DecidableEq, Repr

/-! ## Slots (Chapter 3) -/

/-- Slot states (3.3). -/
inductive SlotState where
  | disabled | active | holding | lost | muted
  deriving DecidableEq, Repr

/-- One slot: its record in the slot table, held SET SLOT values, and its live state (Chapter 3). -/
structure Slot where
  enabled : Bool
  tag : Byte
  slopeCount : Nat
  policy : SlotPolicy
  heldPolicy : Option SlotPolicy
  state : SlotState
  age : Nat
  muted : Bool
  cadence : Nat
  deriving DecidableEq, Repr

/-! ## Reconstruction engine (Chapter 4) -/

/-- States of an attachment record (R65). -/
inductive RecordState where
  | accumulating | multiplied | discarded
  deriving DecidableEq, Repr

/-- The attachment record of a slot (R65). -/
structure Attachment where
  sequence : Word
  groups : Nat
  done : Nat
  state : RecordState
  deriving DecidableEq, Repr

/-- The operation in flight (R65, R71): slot, group number, void mark, and what it holds inside until it ends: the
first slope index it covers, its 32 residuals (R72) and its group sums (R73). -/
structure Operation where
  slot : LinkId
  group : Nat
  isVoid : Bool
  firstIndex : Nat
  residuals : List Word
  sums : Cells 48
  deriving DecidableEq, Repr

/-- The reconstruction engine (R65). -/
structure Engine where
  pointer : LinkId
  inFlight : Option Operation
  records : Quad (Option Attachment)
  fresh : Quad (Cells 48)
  held : Quad (Cells 48)
  residuals : Cells 16
  deriving DecidableEq, Repr

/-! ## Configuration stores (Chapter 10) -/

/-- The nine stores, in the order of their numbers (R159). -/
inductive StoreId where
  | matrix | refslopes | offsets | limits | gains | groupmap | neighbours | probes | offloadvec
  deriving DecidableEq, Repr

/-- One copy of each store. -/
structure Stores where
  matrix : Cells 16
  refslopes : Cells 16
  offsets : Cells 16
  limits : Cells 16
  gains : Cells 16
  groupmap : Cells 16
  neighbours : Cells 16
  probes : Cells 16
  offloadvec : Cells 16
  deriving DecidableEq, Repr

/-- A LOAD in execution (R158, R162): store, first index, count, words written, port, and the words to be written. -/
structure LoadJob where
  store : StoreId
  first : BitVec 32
  count : Nat
  written : Nat
  port : PortId
  words : List Word
  deriving DecidableEq, Repr

/-- The load engine (R158). -/
inductive LoadEngine where
  | idle
  | loading (job : LoadJob)
  deriving DecidableEq, Repr

/-- A pending APPLY (R158): bit n of `selection` names store n. -/
structure PendingApply where
  selection : BitVec 9
  port : PortId
  deriving DecidableEq, Repr

/-- The store controller (R158). -/
structure StoreController where
  active : Stores
  shadow : Stores
  generation : Word
  load : LoadEngine
  pendingApply : Option PendingApply
  deriving DecidableEq, Repr

/-! ## Command unit (Chapter 5) -/

/-- The working set of a close computation (R84, R85): everything it takes at its start. The per-actuator working
values are computed from it (log 17). -/
structure WorkingSet where
  selections : Quad Selection
  contributions : Quad (Cells 48)
  loop : LoopState
  gains : Cells 16
  groupmap : Cells 16
  offsets : Cells 16
  limits : Cells 16
  neighbours : Cells 16
  probe : Cells 16
  count : Nat
  u : Cells 40
  deriving DecidableEq, Repr

/-- The command unit (R84). It is COMPUTING while a working set is present and READY otherwise. -/
structure CommandUnit where
  actuatorCount : Nat
  u : Cells 40
  d : Cells 16
  working : Option WorkingSet
  deriving DecidableEq, Repr

/-! ## Loop state controller (Chapter 7) -/

/-- Targets of a LOOP request that can wait for a boundary (R114). -/
inductive RequestTarget where
  | close | freeze | opn | stop
  deriving DecidableEq, Repr

/-- The pending request (R114). -/
structure LoopRequest where
  target : RequestTarget
  port : PortId
  deriving DecidableEq, Repr

/-- The cause of a trip: a lost slot or a faulted board (R123). -/
inductive TripCause where
  | slot (l : LinkId)
  | board (b : BoardId)
  deriving DecidableEq, Repr

/-- The pending trip: first cause and additional-cause count (R114). -/
structure PendingTrip where
  cause : TripCause
  additional : Nat
  deriving DecidableEq, Repr

/-- The last trip record (R114, R126). -/
structure TripRecord where
  cause : TripCause
  additional : Nat
  cycle : Counter
  time : Stamp
  before : LoopState
  deriving DecidableEq, Repr

/-- The loop state controller (R114). -/
structure LoopController where
  loop : LoopState
  request : Option LoopRequest
  trip : Option PendingTrip
  lastTrip : Option TripRecord
  deriving DecidableEq, Repr

/-! ## Probe generator (Chapter 8) -/

/-- The probe generator (R131). -/
structure ProbeGenerator where
  mode : ProbeMode
  held : Option ProbeMode
  position : Nat
  deriving DecidableEq, Repr

/-! ## Mirror drive link (Chapter 9) -/

/-- A drive vector held by the mirror link controller, with its cycle number and its own actuator count (R142). -/
structure DriveVector where
  values : Cells 16
  cycle : Counter
  count : Nat
  deriving DecidableEq, Repr

/-- The writeout in flight (R142): vector, board being written, busy extensions used for it, outcomes so far. -/
structure Writeout where
  vector : DriveVector
  board : BoardId
  extensions : Nat
  outcomes : Octet BoardOutcome
  deriving DecidableEq, Repr

/-- The phases of a writeout, with the timer that runs in the phase (9.3). -/
inductive WritePhase where
  | addressing
  | waitReady (timer : Word)
  | sending
  | waitAck (timer : Word)
  | gap (timer : Word)
  deriving DecidableEq, Repr

/-- The link phase: IDLE, or a writeout in flight in a phase (R142). -/
inductive LinkActivity where
  | idle
  | writing (w : Writeout) (phase : WritePhase)
  deriving DecidableEq, Repr

/-- Board states (9.4). -/
inductive BoardState where
  | unknown | ok | faulted
  deriving DecidableEq, Repr

/-- A board: its state and its consecutive fault count (R142). -/
structure Board where
  state : BoardState
  faults : Nat
  deriving DecidableEq, Repr

/-- The outcome counters of a board (R154). -/
structure BoardCounters where
  acked : Counter
  naked : Counter
  noAck : Counter
  noReady : Counter
  deriving DecidableEq, Repr

/-- The counters of the mirror link controller (R154). -/
structure MirrorCounters where
  boards : Octet BoardCounters
  sent : Counter
  skipped : Counter
  deriving DecidableEq, Repr

/-- What the part sends on the mirror drive link (R145, R148). -/
inductive DriveSymbol where
  | address
  | command
  | word (w : Word)
  | fin
  deriving DecidableEq, Repr

/-- The mirror link controller (R142). `line` is what the part is sending in the present phase. -/
structure MirrorLink where
  activity : LinkActivity
  pendingVector : Option DriveVector
  boards : Octet Board
  latest : Option WriteoutReport
  settings : MirrorSettings
  held : Option MirrorSettings
  counters : MirrorCounters
  line : List DriveSymbol
  deriving DecidableEq, Repr

/-! ## Supervisory ports (Chapter 11) -/

/-- Port phases (R171). -/
inductive PortPhase where
  | idle | command | executing | result
  deriving DecidableEq, Repr

/-- The cause of a LOOP-CHANGE (R127). -/
inductive LoopCause where
  | request (p : PortId)
  | trip (cause : TripCause) (additional : Nat)
  | reset (p : PortId)
  deriving DecidableEq, Repr

/-- The kind and subject of an event (11.5). -/
inductive EventSubject where
  | linkChange (l : LinkId) (state : LinkState)
  | slotChange (l : LinkId) (state : SlotState)
  | loopChange (before after : LoopState) (cause : LoopCause)
  | boardChange (b : BoardId) (state : BoardState) (faults : Nat)
  | offloadReady (cycle : Counter) (window : Nat)
  deriving DecidableEq, Repr

/-- An event record (R180). -/
structure EventRecord where
  subject : EventSubject
  cycle : Counter
  time : Stamp
  deriving DecidableEq, Repr

/-- Result classes (R176). -/
inductive ResultClass where
  | complete | rejected | withdrawn
  deriving DecidableEq, Repr

/-- Result reasons (R176). -/
inductive Reason where
  | none
  | unknownCommand | badLength | badParameter | wrongState | notConfigured | busy | pending | tripPending
  | superseded | tripped | reset
  deriving DecidableEq, Repr

/-- A result record (R176). The data length is the length of the data. -/
structure ResultRecord where
  code : Byte
  cls : ResultClass
  reason : Reason
  data : List Byte
  deriving DecidableEq, Repr

/-- A command record in reception (R171, R174): the code, the high byte of the length once received, the length once
received, the parameter bytes counted, and the parameter bytes held, in order. -/
structure CommandRecord where
  code : Byte
  lengthHigh : Option Byte
  length : Option Word
  counted : Nat
  params : List Byte
  deriving DecidableEq, Repr

/-- The command in execution at a port: one of the three kinds that can be (R171). -/
inductive ExecutingCommand where
  | load | apply | loop
  deriving DecidableEq, Repr

/-- What a port is doing: its phase with the command record, the command or the result of that phase (R171). -/
inductive PortActivity where
  | idle
  | command (r : CommandRecord)
  | executing (c : ExecutingCommand)
  | result (r : ResultRecord) (position : Nat)
  deriving DecidableEq, Repr

/-- The kind of a transaction (R172): not yet fixed; STATUS; PUT; TAKE begun in RESULT; ignored, which is also a TAKE
that returns 00h throughout and a PUT whose remaining bytes are ignored after a reset from the other port. -/
inductive TransactionKind where
  | awaiting | status | put | take | ignored
  deriving DecidableEq, Repr

/-- The transaction in progress: the status byte formed when the select line was asserted (R173), its kind, and whether
the port's command record was discarded during it by a reset from the other port, after which it can no longer offer bytes
as a PUT (R172, R183). -/
structure Transaction where
  statusByte : Byte
  kind : TransactionKind
  discarded : Bool
  deriving DecidableEq, Repr

/-- A supervisory port (R171). `sent` is the byte the part sent in the latest full transfer. -/
structure Port where
  activity : PortActivity
  transaction : Option Transaction
  sent : Byte
  queue : List EventRecord
  lost : Counter
  deriving DecidableEq, Repr

/-! ## Telemetry and offload (Chapter 12) -/

/-- What the telemetry sender sends next of the record it is sending (R192). -/
inductive SenderNext where
  | word | crc | fin
  deriving DecidableEq, Repr

/-- The telemetry sender (R187): IDLE, or SENDING with the CRC over the words sent so far and what comes next. -/
inductive Sender where
  | idle
  | sending (crc : Word) (next : SenderNext)
  deriving DecidableEq, Repr

/-- The symbol on the telemetry link (12.3). -/
inductive TelemetrySymbol where
  | fill
  | start
  | word (w : Word)
  | crc (w : Word)
  | fin
  deriving DecidableEq, Repr

/-- The capture unit (R187). A record of `fifo` is its words not yet sent. -/
structure CaptureUnit where
  settings : CaptureSettings
  held : Option CaptureSettings
  position : Nat
  fifo : List (List Word)
  drops : Counter
  sender : Sender
  symbol : TelemetrySymbol
  flow : Flow
  deriving DecidableEq, Repr

/-- An offload record (R194). -/
structure OffloadRecord where
  cycle : Counter
  window : Nat
  mask : BitVec 4
  values : Quad (BitVec 32)
  deriving DecidableEq, Repr

/-- The offload unit (R194). -/
structure OffloadUnit where
  settings : OffloadSettings
  held : Option OffloadSettings
  accumulators : Quad (BitVec 64)
  count : Nat
  mailbox : Option OffloadRecord
  fresh : Bool
  overwrites : Counter
  deriving DecidableEq, Repr

/-- The state of the part. `pending` is the queue of commands that wait, first in first out; `resetActs` says that
power-on reset or the reset line is acting (R34, R45). -/
structure State where
  pending : List Instr
  resetActs : Bool
  line : TimingLine
  manager : Manager
  receivers : Quad Receiver
  slots : Quad Slot
  engine : Engine
  stores : StoreController
  command : CommandUnit
  loop : LoopController
  probe : ProbeGenerator
  mirror : MirrorLink
  ports : Pair Port
  capture : CaptureUnit
  offload : OffloadUnit
  deriving DecidableEq, Repr

/-! ## The state after power-on reset -/

/-- The power-on timing settings (R4). -/
def TimingSettings.powerOn : TimingSettings :=
  { mode := .timer, leadSlot := 0, edge := .rising, filter := .off, delay := 0, period := 10000, deadline := 9000,
    queue := true, fallback := 0 }

/-- The counters of the cycle manager at 0 (R23). -/
def ManagerCounters.zero : ManagerCounters := ⟨0, 0, 0, 0, 0⟩

/-- The cycle manager after power-on (R23). -/
def Manager.powerOn : Manager :=
  { state := .idle, timebase := 0, cycle := 0, settings := TimingSettings.powerOn, held := none, latch := none,
    lineDelay := none, period := none, deadline := none, fallback := none, openRecord := none, lastRecord := none,
    counters := ManagerCounters.zero }

/-- The counters of a receiver at 0 (R45). -/
def ReceiverCounters.zero : ReceiverCounters := ⟨0, 0, 0, 0, 0, 0, 0, 0, 0, 0, 0, 0⟩

/-- A receiver at the end of power-on reset (R45). The attached sequence is the model's choice (log 16). -/
def Receiver.powerOn : Receiver :=
  { decoder := .unlocked 0, reception := .off, fifo := [], flow := .go, receivedSeq := 0, attachedSeq := 0,
    lastGoodSeq := 0, primed := false, counters := ReceiverCounters.zero }

/-- A slot after power-on (R47, R63). -/
def Slot.powerOn : Slot :=
  { enabled := false, tag := 0, slopeCount := 32,
    policy := { divisor := 1, phase := 0, late := .hold, holdLimit := 3, outOfCycle := .queue, lossAction := .ignore },
    heldPolicy := none, state := .disabled, age := 0, muted := false, cadence := 0 }

/-- The engine after power-on (R82). -/
def Engine.powerOn : Engine :=
  { pointer := 0, inFlight := none, records := Quad.fill none, fresh := Quad.fill [], held := Quad.fill [],
    residuals := [] }

/-- A copy of the nine stores at their power-on contents: nothing listed (R159, R170). -/
def Stores.powerOn : Stores := ⟨[], [], [], [], [], [], [], [], []⟩

/-- The store controller after power-on (R170). -/
def StoreController.powerOn : StoreController :=
  { active := Stores.powerOn, shadow := Stores.powerOn, generation := 0, load := .idle, pendingApply := none }

/-- The command unit after power-on (R102). -/
def CommandUnit.powerOn : CommandUnit := { actuatorCount := 1024, u := [], d := [], working := none }

/-- The loop state controller after power-on (R129). -/
def LoopController.powerOn : LoopController := { loop := .idle, request := none, trip := none, lastTrip := none }

/-- The probe generator after power-on (R141). -/
def ProbeGenerator.powerOn : ProbeGenerator := { mode := .off, held := none, position := 0 }

/-- The outcome counters of a board at 0. -/
def BoardCounters.zero : BoardCounters := ⟨0, 0, 0, 0⟩

/-- The counters of the mirror link controller at 0 (R156). -/
def MirrorCounters.zero : MirrorCounters := { boards := Octet.fill BoardCounters.zero, sent := 0, skipped := 0 }

/-- The mirror link controller after power-on (R143, R156). -/
def MirrorLink.powerOn : MirrorLink :=
  { activity := .idle, pendingVector := none, boards := Octet.fill { state := .unknown, faults := 0 }, latest := none,
    settings := { readyTimeout := 200, ackTimeout := 200, gap := 0, faultLimit := 3 }, held := none,
    counters := MirrorCounters.zero, line := [] }

/-- A port after power-on (R185). The byte last sent is the model's choice (log 9). -/
def Port.powerOn : Port := { activity := .idle, transaction := none, sent := 0, queue := [], lost := 0 }

/-- The capture unit after power-on (R187, R193). -/
def CaptureUnit.powerOn : CaptureUnit :=
  { settings := { pattern := .off, drive := false, residual := false }, held := none, position := 0, fifo := [],
    drops := 0, sender := .idle, symbol := .fill, flow := .go }

/-- The offload unit after power-on (R194, R198). -/
def OffloadUnit.powerOn : OffloadUnit :=
  { settings := { window := 0, mask := 0 }, held := none, accumulators := Quad.fill 0, count := 0, mailbox := none,
    fresh := false, overwrites := 0 }

/-- The part right after power-on reset has ended: every block at its power-on values, no command waiting. The raw
level of the timing line, an input, is taken as low, and with the filter OFF the filtered level is that level (R8,
log 6). -/
def State.reset : State :=
  { pending := [], resetActs := false, line := { raw := false, filtered := false, measuring := none },
    manager := Manager.powerOn, receivers := Quad.fill Receiver.powerOn, slots := Quad.fill Slot.powerOn,
    engine := Engine.powerOn, stores := StoreController.powerOn, command := CommandUnit.powerOn,
    loop := LoopController.powerOn, probe := ProbeGenerator.powerOn, mirror := MirrorLink.powerOn,
    ports := { pA := Port.powerOn, pB := Port.powerOn }, capture := CaptureUnit.powerOn,
    offload := OffloadUnit.powerOn }

end Sys2Proof.Machine
end

