-- ==== Sys2Proof/Machine/Ops.lean ====
section
/-!
DEFINITION. The named operations that the blocks share: arrays of words in canonical form, counters, timers, the link
CRC, byte and word order, access to the part's blocks, posting of events, and forming a port's result.
-/
namespace Sys2Proof.Machine

/-! ## Arrays of words -/

/-- Read index `k` of an array whose unlisted indices read as `dflt`. -/
def Cells.read {w : Nat} (dflt : Nat → BitVec w) : Cells w → Nat → BitVec w
  | [], k => dflt k
  | (j, x) :: rest, k => if j = k then x else Cells.read dflt rest k

/-- Write `x` at index `k`, keeping the canonical form: a value equal to the default is not listed. -/
def Cells.write {w : Nat} (dflt : Nat → BitVec w) : Cells w → Nat → BitVec w → Cells w
  | [], k, x => if x = dflt k then [] else [(k, x)]
  | (j, y) :: rest, k, x =>
    if k < j then (if x = dflt k then (j, y) :: rest else (k, x) :: (j, y) :: rest)
    else if k = j then (if x = dflt k then rest else (k, x) :: rest)
    else (j, y) :: Cells.write dflt rest k x

/-- Indices strictly rising, all at least `lo`, and no entry equal to the default. -/
def Cells.wfFrom {w : Nat} (dflt : Nat → BitVec w) : Nat → Cells w → Bool
  | _, [] => true
  | lo, (j, x) :: rest => decide (lo ≤ j) && x != dflt j && Cells.wfFrom dflt (j + 1) rest

/-- The canonical form. -/
def Cells.wf {w : Nat} (dflt : Nat → BitVec w) (c : Cells w) : Bool := Cells.wfFrom dflt 0 c

/-- What an unlisted index of every array but a store reads as: 0. -/
def zeroCell {w : Nat} : Nat → BitVec w := fun _ => 0

/-- Entry `a` of an array whose unlisted entries are 0. -/
def Cells.at {w : Nat} (c : Cells w) (a : Nat) : BitVec w := Cells.read zeroCell c a

/-- The array with entry `i` equal to `f i` for `i` from `lo` to `lo + n - 1`, and 0 elsewhere. -/
def Cells.tabulateFrom {w : Nat} (f : Nat → BitVec w) : Nat → Nat → Cells w
  | _, 0 => []
  | lo, n + 1 =>
    if f lo = 0 then Cells.tabulateFrom f (lo + 1) n else (lo, f lo) :: Cells.tabulateFrom f (lo + 1) n

/-- The array with entry `i` equal to `f i` below `n`, and 0 from `n` upward. -/
def Cells.tabulate {w : Nat} (n : Nat) (f : Nat → BitVec w) : Cells w := Cells.tabulateFrom f 0 n

/-- The array with the entries of `lo` to `lo + n - 1` set to 0. -/
def Cells.clearRange {w : Nat} (lo n : Nat) (c : Cells w) : Cells w :=
  c.filter (fun e => !(decide (lo ≤ e.1) && decide (e.1 < lo + n)))

/-- Write consecutive words from index `k` upward. -/
def Cells.writeList {w : Nat} (dflt : Nat → BitVec w) : Cells w → Nat → List (BitVec w) → Cells w
  | c, _, [] => c
  | c, k, x :: xs => Cells.writeList dflt (Cells.write dflt c k x) (k + 1) xs

/-! ## Counters and timers -/

/-- A counter increased by 1, stopping at its largest value (Introduction 6.1, R22). -/
def Counter.increase (c : Counter) : Counter := if c = BitVec.allOnes 32 then c else c + 1

/-- A counter increased by 1 if `b` (R22). -/
def Counter.increaseIf (b : Bool) (c : Counter) : Counter := if b then Counter.increase c else c

/-- A time unit runs a running timer down; at 0 its expiry is due (log 3). -/
def Timer.tick (t : Timer) : Timer := t.map (fun r => if r = 0 then 0 else r - 1)

/-- The expiry of a timer can be taken: it runs and has run down (log 3). -/
def Timer.isDue (t : Timer) : Bool := t == some 0

/-- A timer started for a time that may be 0 units long. -/
def Timer.start (t : Word) : Timer := some t

/-! ## The link CRC (R28) -/

/-- `n` bit steps of the CRC register with polynomial x¹⁶ + x¹² + x⁵ + 1. -/
def crcShift : Nat → Word → Word
  | 0, r => r
  | n + 1, r => crcShift n (if r.msb then (r <<< 1) ^^^ 0x1021#16 else r <<< 1)

/-- The CRC register after one more word, most significant bit first (R28). -/
def crcStep (crc w : Word) : Word := crcShift 16 (crc ^^^ w)

/-- The register starts at all ones (R28). -/
def crcInit : Word := 0xFFFF

/-- The CRC-16 of a list of words (R28); no final inversion. -/
def crcOf (ws : List Word) : Word := ws.foldl crcStep crcInit

/-! ## Byte and word order (R199): most significant part first -/

/-- A word as two bytes. -/
def bytes16 (w : Word) : List Byte := [w.extractLsb' 8 8, w.extractLsb' 0 8]

/-- A 32-bit value as four bytes. -/
def bytes32 (w : BitVec 32) : List Byte :=
  [w.extractLsb' 24 8, w.extractLsb' 16 8, w.extractLsb' 8 8, w.extractLsb' 0 8]

/-- A timebase stamp as six bytes. -/
def bytes48 (w : Stamp) : List Byte :=
  [w.extractLsb' 40 8, w.extractLsb' 32 8, w.extractLsb' 24 8, w.extractLsb' 16 8, w.extractLsb' 8 8,
    w.extractLsb' 0 8]

/-- A 32-bit value as two words. -/
def words32 (w : BitVec 32) : List Word := [w.extractLsb' 16 16, w.extractLsb' 0 16]

/-- A timebase stamp as three words. -/
def words48 (w : Stamp) : List Word := [w.extractLsb' 32 16, w.extractLsb' 16 16, w.extractLsb' 0 16]

/-- A word from its two bytes, the high one first. -/
def word16 (hi lo : Byte) : Word := hi ++ lo

/-- A 32-bit value from its four bytes, the highest first. -/
def word32 (b3 b2 b1 b0 : Byte) : BitVec 32 := (b3 ++ b2) ++ (b1 ++ b0)

/-! ## Access to the blocks -/

/-- `q` with `f` applied to member `i`. -/
def quadModify {α : Type} (q : Quad α) (i : LinkId) (f : α → α) : Quad α := q.set i (f (q.get i))

/-- Receiver `l` changed by `f`. -/
def State.onReceiver (s : State) (l : LinkId) (f : Receiver → Receiver) : State :=
  { s with receivers := quadModify s.receivers l f }

/-- Slot `l` changed by `f`. -/
def State.onSlot (s : State) (l : LinkId) (f : Slot → Slot) : State := { s with slots := quadModify s.slots l f }

/-- The cycle manager changed by `f`. -/
def State.onManager (s : State) (f : Manager → Manager) : State := { s with manager := f s.manager }

/-- The counters of the cycle manager changed by `f`. -/
def State.onManagerCounters (s : State) (f : ManagerCounters → ManagerCounters) : State :=
  s.onManager (fun m => { m with counters := f m.counters })

/-- Port `p` changed by `f`. -/
def State.onPort (s : State) (p : PortId) (f : Port → Port) : State :=
  { s with ports := s.ports.set p (f (s.ports.get p)) }

/-- Do `f` for each of `ls` in order. -/
def forLinks (f : LinkId → State → State) : List LinkId → State → State
  | [], s => s
  | l :: ls, s => forLinks f ls (f l s)

/-- Items that wait for a boundary wait while a cycle is open (1.1, R177). -/
def State.cycleIsOpen (s : State) : Bool :=
  match s.manager.state with
  | .gathering => true
  | .closing => true
  | .idle => false
  | .armed => false

/-- The slot table's fields in force of a slot (R47). -/
def Slot.entry (x : Slot) : SlotTableEntry :=
  { enabled := x.enabled, tag := x.tag, slopeCount := x.slopeCount, policy := x.policy }

/-- Every setting in force (R21). -/
def State.settingsInForce (s : State) : SettingsInForce :=
  { actuatorCount := s.command.actuatorCount, slots := s.slots.map Slot.entry, timing := s.manager.settings,
    probe := s.probe.mode, mirror := s.mirror.settings, capture := s.capture.settings, offload := s.offload.settings }

/-! ## Events (R180) -/

/-- A port takes a posted event: it is appended at the tail of the queue, or, with 16 records in the queue, is
discarded and counted as lost (R180). -/
def Port.takeEvent (e : EventRecord) (p : Port) : Port :=
  if p.queue.length < Config.queueDepth then { p with queue := p.queue ++ [e] }
  else { p with lost := Counter.increase p.lost }

/-- Post an event to both ports, with the cycle number held by the cycle manager and the timebase stamp (R180). -/
def State.post (subject : EventSubject) (s : State) : State :=
  { s with ports := s.ports.map (Port.takeEvent
      { subject := subject, cycle := s.manager.cycle, time := s.manager.timebase }) }

/-! ## Results (R175, R176) -/

/-- A result is waiting at port `p`: the port is in RESULT with read position 0 (R175, R176). -/
def State.answer (p : PortId) (r : ResultRecord) (s : State) : State :=
  s.onPort p (fun q => { q with activity := .result r 0 })

/-- The command of code `code` is refused: class REJECTED, the reason, and no data (R175). -/
def State.reject (p : PortId) (code : Byte) (reason : Reason) (s : State) : State :=
  s.answer p { code := code, cls := .rejected, reason := reason, data := [] }

/-- The command of code `code` completes with `data` (R175). -/
def State.complete (p : PortId) (code : Byte) (data : List Byte) (s : State) : State :=
  s.answer p { code := code, cls := .complete, reason := .none, data := data }

/-- The command of code `code` is withdrawn by its owner with `reason` and `data` (R175). -/
def State.withdraw (p : PortId) (code : Byte) (reason : Reason) (data : List Byte) (s : State) : State :=
  s.answer p { code := code, cls := .withdrawn, reason := reason, data := data }

/-- The owner has accepted the command and not completed it: the port enters EXECUTING (R175). -/
def State.execute (p : PortId) (c : ExecutingCommand) (s : State) : State :=
  s.onPort p (fun q => { q with activity := .executing c })

/-- The phase of a port (R171). -/
def Port.phase (p : Port) : PortPhase :=
  match p.activity with
  | .idle => .idle
  | .command _ => .command
  | .executing _ => .executing
  | .result _ _ => .result

/-- The port can take a command: it is in IDLE or COMMAND (R172, R174). -/
def Port.takesCommand (p : Port) : Bool :=
  match p.activity with
  | .idle => true
  | .command _ => true
  | .executing _ => false
  | .result _ _ => false

/-! ## Stores (R159) -/

/-- The size of a store in words (R159). -/
def StoreId.size : StoreId → Nat
  | .matrix => 2097152
  | .refslopes => 2048
  | .offsets => 1024
  | .limits => 2048
  | .gains => 16
  | .groupmap => 1024
  | .neighbours => 6145
  | .probes => 516
  | .offloadvec => 4096

/-- The power-on contents of a store, which an unlisted index reads as: LO −32,768 at even and HI 32,767 at odd
indices of LIMITS, G 0 at even and L 65,535 at odd indices of GAINS, 0 elsewhere (R159). -/
def StoreId.powerOn : StoreId → Nat → Word
  | .limits, i => if i % 2 = 0 then 0x8000 else 0x7FFF
  | .gains, i => if i % 2 = 0 then 0 else 0xFFFF
  | .matrix, _ => 0
  | .refslopes, _ => 0
  | .offsets, _ => 0
  | .groupmap, _ => 0
  | .neighbours, _ => 0
  | .probes, _ => 0
  | .offloadvec, _ => 0

/-- The number of a store (R159). -/
def StoreId.number : StoreId → Nat
  | .matrix => 0
  | .refslopes => 1
  | .offsets => 2
  | .limits => 3
  | .gains => 4
  | .groupmap => 5
  | .neighbours => 6
  | .probes => 7
  | .offloadvec => 8

/-- The store of a number, for numbers 0 to 8 (R159). -/
def StoreId.ofNumber (n : Nat) : Option StoreId :=
  match n with
  | 0 => some .matrix
  | 1 => some .refslopes
  | 2 => some .offsets
  | 3 => some .limits
  | 4 => some .gains
  | 5 => some .groupmap
  | 6 => some .neighbours
  | 7 => some .probes
  | 8 => some .offloadvec
  | _ => none

/-- The words of one store. -/
def Stores.get (c : Stores) : StoreId → Cells 16
  | .matrix => c.matrix
  | .refslopes => c.refslopes
  | .offsets => c.offsets
  | .limits => c.limits
  | .gains => c.gains
  | .groupmap => c.groupmap
  | .neighbours => c.neighbours
  | .probes => c.probes
  | .offloadvec => c.offloadvec

/-- The copy with the words of one store replaced. -/
def Stores.set (c : Stores) (i : StoreId) (x : Cells 16) : Stores :=
  match i with
  | .matrix => { c with matrix := x }
  | .refslopes => { c with refslopes := x }
  | .offsets => { c with offsets := x }
  | .limits => { c with limits := x }
  | .gains => { c with gains := x }
  | .groupmap => { c with groupmap := x }
  | .neighbours => { c with neighbours := x }
  | .probes => { c with probes := x }
  | .offloadvec => { c with offloadvec := x }

/-- Word `i` of a store copy. -/
def storeWord (id : StoreId) (c : Cells 16) (i : Nat) : Word := Cells.read id.powerOn c i

/-- Whether a selection names a store (10.5). -/
def selects (selection : BitVec 9) (id : StoreId) : Bool := selection.getLsbD id.number

/-! ## Slots and geometry -/

/-- The sum of the slope counts of the enabled slots among `ls`. -/
def enabledSlopes (slots : Quad Slot) : List LinkId → Nat
  | [] => 0
  | l :: ls => (if (slots.get l).enabled then (slots.get l).slopeCount else 0) + enabledSlopes slots ls

/-- The slope base of a slot: the sum of the slope counts of the enabled slots numbered below it (R49). -/
def slopeBase (slots : Quad Slot) (l : LinkId) : Nat := enabledSlopes slots (links.filter (fun k => decide (k < l)))

/-- The total slope count: the sum over the enabled slots (R190). -/
def totalSlopes (slots : Quad Slot) : Nat := enabledSlopes slots links

/-! ## Commands while the reset acts (log 5) -/

/-- A command has its effect `f` unless power-on reset or the reset line is acting, when the part takes nothing but
the reset's end, the reference clock and the raw level of its timing line (R34, R45, log 5). -/
def State.unlessReset (s : State) (f : State → State) : Host.Outcome State Fault Refusal :=
  .next (if s.resetActs then s else f s)

end Sys2Proof.Machine
end

