-- ==== Sys2Proof/Machine/Flags.lean ====
section
/-!
DEFINITION. Every flag, mark and line the part computes from its state: the status byte and the attention line of a
port, the flow symbol of a sensor link, the link state, the ack mask.
-/
namespace Sys2Proof.Machine

/-- Bit `n` of a byte, set if `b`. -/
def flagBit (n : Nat) (b : Bool) : Byte := if b then 1#8 <<< n else 0

/-- The code of a port phase (13.4). -/
def PortPhase.code : PortPhase → Byte
  | .idle => 0
  | .command => 1
  | .executing => 2
  | .result => 3

/-- ATTN: the port's event queue is not empty (R173). -/
def Port.attn (p : Port) : Bool := !p.queue.isEmpty

/-- The status byte: CMD-READY, EXEC, RESULT, ATTN and the phase (R173, 13.4). -/
def Port.statusByte (p : Port) : Byte :=
  flagBit 7 (p.phase == .idle) ||| flagBit 6 (p.phase == .executing) ||| flagBit 5 (p.phase == .result) |||
    flagBit 4 p.attn ||| p.phase.code

/-- The attention line: asserted while the phase is RESULT or the event queue is not empty (R173). -/
def Port.attention (p : Port) : Bool := p.phase == .result || p.attn

/-- The link state, from lock and frame reception (R27). -/
def Receiver.linkState (r : Receiver) : LinkState :=
  match r.decoder with
  | .unlocked _ => .down
  | .locked _ false => .locked
  | .locked _ true => .up

/-- The occupancy of a staging FIFO: the groups held over all its entries (2.5). -/
def fifoGroups (fifo : List FifoEntry) : Nat := (fifo.map (fun e => e.groups.length)).sum

/-- The flow symbol after a group is appended: HOLD at 48 groups or more (R34). -/
def Flow.afterAppend (groups : Nat) (f : Flow) : Flow := if Config.holdAt ≤ groups then .hold else f

/-- The flow symbol after groups are removed: GO at 32 groups or fewer (R34). -/
def Flow.afterRemoval (groups : Nat) (f : Flow) : Flow := if groups ≤ Config.goAt then .go else f

/-- The receiver with its FIFO replaced by one with fewer groups, and the flow symbol re-evaluated (R34). -/
def Receiver.withFewer (fifo : List FifoEntry) (r : Receiver) : Receiver :=
  { r with fifo := fifo, flow := Flow.afterRemoval (fifoGroups fifo) r.flow }

/-- Bit `n` of the ack mask, set if the outcome is ACKED. -/
def ackBit (n : Nat) (o : BoardOutcome) : Byte := flagBit n (o == .acked)

/-- The ack mask: each board whose outcome is ACKED (R153). -/
def WriteoutReport.ackMask (r : WriteoutReport) : Byte :=
  ackBit 0 r.outcomes.o0 ||| ackBit 1 r.outcomes.o1 ||| ackBit 2 r.outcomes.o2 ||| ackBit 3 r.outcomes.o3 |||
    ackBit 4 r.outcomes.o4 ||| ackBit 5 r.outcomes.o5 ||| ackBit 6 r.outcomes.o6 ||| ackBit 7 r.outcomes.o7

/-- The words in the telemetry FIFO, counting the unsent words of a record partly sent (R187). -/
def CaptureUnit.level (c : CaptureUnit) : Nat := (c.fifo.map List.length).sum

end Sys2Proof.Machine
end

