-- ==== Sys2Proof/Machine/Formats.lean ====
section
/-!
DEFINITION. The layouts and codes of what the part sends: result data, event records, the telemetry record, the board
block, the offload record (Chapter 13, R199, R200, R202). The order and the widths of result data that the manual
leaves open are named in logs 12 to 14.
-/
namespace Sys2Proof.Machine

/-! ## Codes -/

/-- A flag or yes-or-no field as a byte (R202). -/
def flagByte (b : Bool) : Byte := if b then 1 else 0

/-- Ports (R202). -/
def portCode : PortId → Byte
  | .A => 0
  | .B => 1

/-- Loop states (13.5). -/
def LoopState.code : LoopState → Byte
  | .idle => 0
  | .opened => 1
  | .closed => 2
  | .frozen => 3

/-- Link states (13.5). -/
def LinkState.code : LinkState → Byte
  | .down => 0
  | .locked => 1
  | .up => 2

/-- Slot states (13.5). -/
def SlotState.code : SlotState → Byte
  | .disabled => 0
  | .active => 1
  | .holding => 2
  | .lost => 3
  | .muted => 4

/-- Board states (13.5). -/
def BoardState.code : BoardState → Byte
  | .unknown => 0
  | .ok => 1
  | .faulted => 2

/-- Trip causes: 30h + slot, 38h + board (13.5). -/
def TripCause.code : TripCause → Byte
  | .slot l => 0x30 + BitVec.ofNat 8 l.val
  | .board b => 0x38 + BitVec.ofNat 8 b.val

/-- LOOP-CHANGE causes: 10h + port for REQUEST, 20h + port for RESET, the trip cause for TRIP (13.5). -/
def LoopCause.code : LoopCause → Byte
  | .request p => 0x10 + portCode p
  | .trip c _ => c.code
  | .reset p => 0x20 + portCode p

/-- The additional-cause count of a LOOP-CHANGE for TRIP, else 0 (13.5). -/
def LoopCause.additional : LoopCause → Nat
  | .request _ => 0
  | .trip _ n => n
  | .reset _ => 0

/-- LOOP targets of a pending request (R201). -/
def RequestTarget.code : RequestTarget → Byte
  | .close => 2
  | .freeze => 3
  | .opn => 4
  | .stop => 5

/-- Cycle manager states (R202). -/
def ManagerState.code : ManagerState → Byte
  | .idle => 0
  | .armed => 1
  | .gathering => 2
  | .closing => 3

/-- Trigger latch content (R202). -/
def latchCode : Option LatchedCause → Byte
  | none => 0
  | some .line => 1
  | some .timer => 2

/-- Mirror link phases (R202). -/
def LinkActivity.code : LinkActivity → Byte
  | .idle => 0
  | .writing _ .addressing => 1
  | .writing _ (.waitReady _) => 2
  | .writing _ .sending => 3
  | .writing _ (.waitAck _) => 4
  | .writing _ (.gap _) => 5

/-- Board outcomes (R202). -/
def BoardOutcome.code : BoardOutcome → Byte
  | .notWritten => 0
  | .acked => 1
  | .naked => 2
  | .noAck => 3
  | .noReady => 4

/-- Result classes (13.4). -/
def ResultClass.code : ResultClass → Byte
  | .complete => 0
  | .rejected => 1
  | .withdrawn => 2

/-- Result reasons (13.4). -/
def Reason.code : Reason → Byte
  | .none => 0x00
  | .unknownCommand => 0x01
  | .badLength => 0x02
  | .badParameter => 0x03
  | .wrongState => 0x04
  | .notConfigured => 0x05
  | .busy => 0x06
  | .pending => 0x07
  | .tripPending => 0x08
  | .superseded => 0x09
  | .tripped => 0x0A
  | .reset => 0x0B

/-- Trigger modes (R201). -/
def TriggerMode.code : TriggerMode → Byte
  | .lead => 0
  | .line => 1
  | .timer => 2

/-- Line edges (R201). -/
def LineEdge.code : LineEdge → Byte
  | .rising => 0
  | .falling => 1

/-- Line filters (R201). -/
def LineFilter.code : LineFilter → Byte
  | .off => 0
  | .f2 => 1
  | .f10 => 2
  | .f50 => 3
  | .f200 => 4

/-- Late policies (R201). -/
def LatePolicy.code : LatePolicy → Byte
  | .hold => 0
  | .zero => 1

/-- Out-of-cycle policies (R201). -/
def OutOfCycle.code : OutOfCycle → Byte
  | .queue => 0
  | .drop => 1

/-- Loss actions (R201). -/
def LossAction.code : LossAction → Byte
  | .ignore => 0
  | .trip => 1

/-- Probe modes: 00h for OFF, or the slot count k (R201). -/
def ProbeMode.code : ProbeMode → Byte
  | .off => 0
  | .on k => BitVec.ofNat 8 k

/-- Capture patterns (R201). -/
def CapturePattern.code : CapturePattern → Byte
  | .off => 0
  | .every _ => 1
  | .burst _ _ => 2
  | .mask _ _ => 3

/-- Open causes as in the telemetry header (13.6). -/
def OpenCause.code : OpenCause → Word
  | .lead => 0
  | .line => 1
  | .timer => 2
  | .fallback => 3

/-- Close causes as in the telemetry header (13.6). -/
def CloseCause.code : CloseCause → Word
  | .complete => 0
  | .deadline => 1

/-- Selections as in the telemetry header (13.6). -/
def Selection.code : Selection → Word
  | .fresh => 0
  | .held => 1
  | .zeroed => 2
  | .notExpected => 3
  | .muted => 4

/-! ## Result records and result data -/

/-- The bytes of a result record: code, class, reason, data length in two bytes, data (13.4, R176). -/
def ResultRecord.bytes (r : ResultRecord) : List Byte :=
  [r.code, r.cls.code, r.reason.code] ++ bytes16 (BitVec.ofNat 16 r.data.length) ++ r.data

/-- A count in two bytes (R199). -/
def count16 (n : Nat) : List Byte := bytes16 (BitVec.ofNat 16 n)

/-- A field that may be absent: a presence byte, then the field's `n` bytes, 0 where it is absent (R202). -/
def presence (n : Nat) : Option (List Byte) → List Byte
  | none => 0 :: List.replicate n 0
  | some bs => 1 :: bs

/-- The timing fields as in SET TIMING (R201). -/
def TimingSettings.bytes (t : TimingSettings) : List Byte :=
  [t.mode.code, BitVec.ofNat 8 t.leadSlot.val, t.edge.code, t.filter.code] ++ bytes16 t.delay ++ bytes16 t.period ++
    bytes16 t.deadline ++ [flagByte t.queue] ++ bytes16 t.fallback

/-- The policy fields as in SET SLOT (R201). -/
def SlotPolicy.bytes (p : SlotPolicy) : List Byte :=
  [BitVec.ofNat 8 p.divisor, BitVec.ofNat 8 p.phase, p.late.code, BitVec.ofNat 8 p.holdLimit, p.outOfCycle.code,
    p.lossAction.code]

/-- The mirror link settings as in SET MIRROR (R201). -/
def MirrorSettings.bytes (m : MirrorSettings) : List Byte :=
  bytes16 m.readyTimeout ++ bytes16 m.ackTimeout ++ [m.gap, BitVec.ofNat 8 m.faultLimit]

/-- The pattern's parameters as in SET CAPTURE (R201). That a parameter the pattern does not name is sent as 0, and that the
mask of MASK is sent as it was accepted, with the bits for counts P to 31, is the model's choice (log 14). -/
def CapturePattern.parameterBytes : CapturePattern → List Byte
  | .off => count16 0 ++ count16 0 ++ bytes32 0
  | .every n => count16 n ++ count16 0 ++ bytes32 0
  | .burst m t => count16 m ++ count16 t ++ bytes32 0
  | .mask p bits => count16 p ++ count16 0 ++ bytes32 bits

/-- The capture settings as in SET CAPTURE (R201). -/
def CaptureSettings.bytes (c : CaptureSettings) : List Byte :=
  [c.pattern.code, flagBit 0 c.drive ||| flagBit 1 c.residual] ++ c.pattern.parameterBytes

/-- The offload settings as in SET OFFLOAD (R201). -/
def OffloadSettings.bytes (o : OffloadSettings) : List Byte := count16 o.window ++ [o.mask.setWidth 8]

/-- The geometry fields of one slot as in SET GEOMETRY (R201). -/
def Slot.geometryBytes (s : Slot) : List Byte := [flagByte s.enabled, s.tag] ++ count16 s.slopeCount

/-! ## The telemetry record (13.6, R190) -/

/-- The words of the previous writeout field: marked empty by bit 15 where there is none (13.6). -/
def previousWords : Option WriteoutReport → List Word
  | none => [0, 0x8000]
  | some r => [r.cycle.extractLsb' 0 16, r.ackMask.setWidth 16 ||| (if r.skipped then 0x0100 else 0)]

/-- Word 9 of the header: open cause, late-start flag, close cause, loop state, probe position (13.6). -/
def CycleRecord.stateWord (r : CycleRecord) : Word :=
  (r.opened.cause.code <<< 14) ||| (if r.opened.lateStart then 0x2000 else 0) ||| (r.close.cause.code <<< 12) |||
    (r.opened.loop.code.setWidth 16 <<< 10) |||
    (match r.close.probePosition with
      | none => 0x000F
      | some p => BitVec.ofNat 16 p)

/-- Word 11 + n of the header: selection and age of slot n (13.6). -/
def slotWord (sel : Selection) (age : Nat) : Word := (sel.code <<< 8) ||| BitVec.ofNat 16 age

/-- Words 1 to 23 of the telemetry header (13.6). -/
def CycleRecord.words (r : CycleRecord) : List Word :=
  words32 r.opened.cycle ++ words48 r.opened.time ++ words48 r.close.time ++ [r.stateWord, r.opened.generation] ++
    links.map (fun l => slotWord (r.close.selections.get l) (r.close.ages.get l)) ++
    r.close.sequences.toList ++
    [BitVec.ofNat 16 r.counts.limited, BitVec.ofNat 16 r.counts.adjustments, BitVec.ofNat 16 r.counts.residual] ++
    previousWords r.close.previous

/-- Word 0 of the header: record length and the marks of the sections (13.6). -/
def lengthWord (length : Nat) (drive residual : Bool) : Word :=
  BitVec.ofNat 16 length ||| (if drive then 0x4000 else 0) ||| (if residual then 0x8000 else 0)

/-- The record's words: header, then the sections given (R190). -/
def telemetryRecord (r : CycleRecord) (drive residual : Option (List Word)) : List Word :=
  let body := drive.getD [] ++ residual.getD []
  lengthWord (Config.headerWords + body.length) drive.isSome residual.isSome :: (r.words ++ body)

/-! ## The board block (13.3, R148) -/

/-- The board address word: bits 2 to 0 the board number (13.3). -/
def addressWord (b : BoardId) : Word := BitVec.ofNat 16 b.val

/-- The 128 drive words of board `b` (R148). -/
def boardWords (v : DriveVector) (b : BoardId) : List Word :=
  (List.range Config.boardActuators).map (fun i => v.values.at (Config.boardActuators * b.val + i))

/-- The words the block's CRC covers: WRITE, the cycle word, the drive words (R148). -/
def checkedWords (v : DriveVector) (b : BoardId) : List Word :=
  0x0001 :: v.cycle.extractLsb' 0 16 :: boardWords v b

/-- What the part sends in SENDING: COMMAND, the checked words, the CRC word, END (R148). -/
def blockSymbols (v : DriveVector) (b : BoardId) : List DriveSymbol :=
  .command :: ((checkedWords v b ++ [crcOf (checkedWords v b)]).map .word ++ [.fin])

/-! ## Events (13.5) -/

/-- The kind code and the four subject bytes of an event (13.5). -/
def EventSubject.bytes : EventSubject → List Byte
  | .linkChange l st => [1, BitVec.ofNat 8 l.val, st.code, 0, 0]
  | .slotChange l st => [2, BitVec.ofNat 8 l.val, st.code, 0, 0]
  | .loopChange before after cause => [3, before.code, after.code, cause.code, BitVec.ofNat 8 cause.additional]
  | .boardChange b st n => [4, BitVec.ofNat 8 b.val, st.code, BitVec.ofNat 8 n, 0]
  | .offloadReady _ w => [5] ++ count16 w ++ [0, 0]

/-- The data of a SENSE EVENT result: 19 bytes (13.5). -/
def senseData (e : Option EventRecord) (lost : Counter) : List Byte :=
  (match e with
    | none => List.replicate 15 0
    | some r => r.subject.bytes ++ bytes32 r.cycle ++ bytes48 r.time) ++ bytes32 lost

/-! ## The offload record (13.7) -/

/-- The data of a READ OFFLOAD result (13.7). -/
def offloadData (m : Option OffloadRecord) (fresh : Bool) : List Byte :=
  match m with
  | none => [0]
  | some r => [1, flagByte fresh] ++ bytes32 r.cycle ++ count16 r.window ++ [r.mask.setWidth 8] ++
      bytes32 r.values.q0 ++ bytes32 r.values.q1 ++ bytes32 r.values.q2 ++ bytes32 r.values.q3

/-! ## Counters (R179) -/

/-- The counters of a receiver in the order of R44. -/
def ReceiverCounters.toList (c : ReceiverCounters) : List Counter :=
  [c.good, c.framing, c.lock, c.crc, c.overrun, c.deadline, c.rejectedKind, c.rejectedTag, c.rejectedLength, c.dropped,
    c.sequenceBreaks, c.notices]

/-- The counters of the cycle manager in the order of R22. -/
def ManagerCounters.toList (c : ManagerCounters) : List Counter :=
  [c.deadlineCloses, c.droppedTriggers, c.lateStarts, c.lineOverlaps, c.fallbackOpens]

/-- The counters of the mirror link controller in the order of R154: each row for boards 0 to 7 (log 13). -/
def MirrorCounters.toList (c : MirrorCounters) : List Counter :=
  c.boards.toList.map BoardCounters.acked ++ c.boards.toList.map BoardCounters.naked ++
    c.boards.toList.map BoardCounters.noAck ++ c.boards.toList.map BoardCounters.noReady ++ [c.sent, c.skipped]

/-- Every counter of the part, in the order of R179. -/
def State.counterList (s : State) : List Counter :=
  (s.receivers.toList.map (fun r => r.counters.toList)).flatten ++ s.manager.counters.toList ++
    s.mirror.counters.toList ++ [s.capture.drops, s.offload.overwrites]

/-- The data of a READ COUNTERS result (R179, R202). -/
def counterData (s : State) : List Byte := (s.counterList.map bytes32).flatten

/-! ## GET STATUS (R178) -/

/-- The loop group of R178. -/
def loopStatus (c : LoopController) : List Byte :=
  [c.loop.code] ++
    presence 2 (c.request.map (fun r => [r.target.code, portCode r.port])) ++
    presence 3 (c.trip.map (fun t => [t.cause.code] ++ count16 t.additional)) ++
    presence 14 (c.lastTrip.map (fun t =>
      [t.cause.code] ++ count16 t.additional ++ bytes32 t.cycle ++ bytes48 t.time ++ [t.before.code]))

/-- The cycle group of R178. -/
def cycleStatus (m : Manager) : List Byte :=
  [m.state.code] ++ bytes32 m.cycle ++ bytes48 m.timebase ++ [latchCode m.latch] ++
    presence 46 (m.lastRecord.map (fun r => (r.words.map bytes16).flatten))

/-- The LOAD in execution, absent while the load engine is IDLE (R158). -/
def LoadEngine.job : LoadEngine → Option LoadJob
  | .idle => none
  | .loading j => some j

/-- The state of the load engine (R202). -/
def LoadEngine.code : LoadEngine → Byte
  | .idle => 0
  | .loading _ => 1

/-- The configuration group of R178. The load engine's store, port and words written are absent while it is IDLE (R158),
so they follow a presence byte (R202); that one stands before the three together is the model's choice (log 12). -/
def configurationStatus (c : StoreController) : List Byte :=
  bytes16 c.generation ++ [c.load.code] ++
    presence 4 (c.load.job.map (fun j => [BitVec.ofNat 8 j.store.number, portCode j.port] ++ count16 j.written)) ++
    presence 3 (c.pendingApply.map (fun a => bytes16 (a.selection.setWidth 16) ++ [portCode a.port]))

/-- The fields of slot `l` in the sensors group of R178. -/
def slotStatus (slots : Quad Slot) (l : LinkId) : List Byte :=
  (slots.get l).geometryBytes ++ count16 (slopeBase slots l) ++ (slots.get l).policy.bytes ++
    presence 6 ((slots.get l).heldPolicy.map SlotPolicy.bytes) ++
    [(slots.get l).state.code] ++ count16 (slots.get l).age ++ [flagByte (slots.get l).muted] ++
    count16 (slots.get l).cadence

/-- The sensors group of R178. -/
def sensorStatus (receivers : Quad Receiver) (slots : Quad Slot) : List Byte :=
  receivers.toList.map (fun r => r.linkState.code) ++ (links.map (slotStatus slots)).flatten

/-- The settings group of R178. That the capture settings, in force and held, come before the offload settings, in force
and held, is the model's choice: R178 names the two units together (log 12). -/
def settingStatus (s : State) : List Byte :=
  s.manager.settings.bytes ++ presence 13 (s.manager.held.map TimingSettings.bytes) ++
    [s.probe.mode.code] ++ presence 1 (s.probe.held.map (fun m => [m.code])) ++ count16 s.probe.position ++
    s.mirror.settings.bytes ++ presence 6 (s.mirror.held.map MirrorSettings.bytes) ++
    s.capture.settings.bytes ++ presence 10 (s.capture.held.map CaptureSettings.bytes) ++
    s.offload.settings.bytes ++ presence 3 (s.offload.held.map OffloadSettings.bytes)

/-- The writeout in flight, if any. -/
def LinkActivity.writeout : LinkActivity → Option Writeout
  | .idle => none
  | .writing w _ => some w

/-- A writeout report as GET STATUS sends it (R153, R202). -/
def WriteoutReport.bytes (r : WriteoutReport) : List Byte :=
  bytes32 r.cycle ++ r.outcomes.toList.map BoardOutcome.code ++ [r.ackMask, flagByte r.skipped]

/-- The mirror group of R178. -/
def mirrorStatus (m : MirrorLink) : List Byte :=
  [m.activity.code] ++ presence 4 (m.activity.writeout.map (fun w => bytes32 w.vector.cycle)) ++
    presence 4 (m.pendingVector.map (fun v => bytes32 v.cycle)) ++
    (m.boards.toList.map (fun b => [b.state.code] ++ count16 b.faults)).flatten ++
    presence 14 (m.latest.map WriteoutReport.bytes)

/-- The outputs group of R178. -/
def outputStatus (c : CaptureUnit) (o : OffloadUnit) : List Byte :=
  bytes32 (BitVec.ofNat 32 c.level) ++ bytes32 c.drops ++ [flagByte o.fresh] ++ count16 o.count

/-- The phase that GET STATUS reports of port `q` when port `p` asks: the asking port is in COMMAND, its record just
complete (R175, log 15). -/
def reportedPhase (ports : Pair Port) (p q : PortId) : Byte :=
  if p = q then PortPhase.command.code else (ports.get q).phase.code

/-- The ports group of R178. -/
def portStatus (ports : Pair Port) (p : PortId) : List Byte :=
  [reportedPhase ports p .A, reportedPhase ports p .B] ++ count16 (ports.get p).queue.length ++
    bytes32 (ports.get p).lost

/-- The data of a GET STATUS result at port `p` (R178). -/
def statusData (p : PortId) (s : State) : List Byte :=
  loopStatus s.loop ++ cycleStatus s.manager ++ configurationStatus s.stores ++ sensorStatus s.receivers s.slots ++
    settingStatus s ++ mirrorStatus s.mirror ++ outputStatus s.capture s.offload ++ portStatus s.ports p

end Sys2Proof.Machine
end

