-- ==== Sys2Proof/WellFormed.lean ====
section
/-!
DEFINITION. Which commands are well formed: what no record of the part can carry is ruled out. A parameter out of its
field's range is NOT ill formed: the part takes such a record and refuses it (R177).
-/
namespace Sys2Proof

/-- The codes that name a command (the table of R201). -/
def commandCodes : List Byte :=
  [0x01, 0x02, 0x10, 0x11, 0x12, 0x13, 0x14, 0x15, 0x16, 0x20, 0x21, 0x22, 0x30, 0x40, 0x41, 0x50]

/-- A LOAD record carries exactly `count` words, and its length 7 + 2 × count is a 16-bit value, so its count is at
most 32,764 (R201). -/
def LoadParams.wellFormed (x : LoadParams) : Bool :=
  x.words.length == x.count.toNat && decide (x.count.toNat ≤ 32764)

/-- UNKNOWN_COMMAND is the row of a code that names no command (R175); a LOAD is one a record can carry (R201); every
other command is well formed with any operands. -/
def Instr.wellFormed : Instr → Bool
  | .unknownCommand _ code => !commandCodes.contains code
  | .load _ x => x.wellFormed
  | .powerOnReset => true
  | .linkStartSymbol _ => true
  | .linkDataSymbol _ _ => true
  | .linkEndSymbol _ => true
  | .linkFillSymbol _ => true
  | .linkInvalidSymbol _ => true
  | .timingLineChange => true
  | .lineFilterExpiry => true
  | .lineDelayExpiry => true
  | .periodExpiry => true
  | .fallbackExpiry => true
  | .deadlineExpiry => true
  | .groupOperationEnd => true
  | .closeComputationEnd => true
  | .addressSent => true
  | .boardReady => true
  | .boardBusy => true
  | .readyTimeout => true
  | .blockSent => true
  | .boardAck => true
  | .boardNak => true
  | .ackTimeout => true
  | .gapEnd => true
  | .telemetryGo => true
  | .telemetryHold => true
  | .telemetrySymbolSent => true
  | .portSelect _ => true
  | .transactionByte _ _ => true
  | .commandByte _ _ => true
  | .resultByte _ => true
  | .portDeselect _ => true
  | .getStatus _ => true
  | .readCounters _ _ => true
  | .setGeometry _ _ => true
  | .setTiming _ _ => true
  | .setSlot _ _ => true
  | .setMirror _ _ => true
  | .setProbe _ _ => true
  | .setCapture _ _ => true
  | .setOffload _ _ => true
  | .loadWordWrite => true
  | .readBack _ _ => true
  | .apply _ _ => true
  | .loopStart _ => true
  | .loopClose _ => true
  | .loopFreeze _ => true
  | .loopOpen _ => true
  | .loopStop _ => true
  | .readOffload _ => true
  | .senseEvent _ => true
  | .resetPart _ => true
  | .timebaseTick => true
  | .resetEnd => true

end Sys2Proof
end

