-- ==== Sys2Proof/Machine/Operands.lean ====
section
/-!
DEFINITION. The operand forms of the masters' commands: the codes and parameter lengths of R201, the reading of a
record's parameter bytes, and the checks that turn raw fields into settings (R4, R48, R50, R132, R143, R188, R194).
-/
namespace Sys2Proof.Machine

/-! ## Codes of the commands (R201) -/

/-- GET STATUS. -/
def codeGetStatus : Byte := 0x01
/-- READ COUNTERS. -/
def codeReadCounters : Byte := 0x02
/-- SET GEOMETRY. -/
def codeSetGeometry : Byte := 0x10
/-- SET TIMING. -/
def codeSetTiming : Byte := 0x11
/-- SET SLOT. -/
def codeSetSlot : Byte := 0x12
/-- SET MIRROR. -/
def codeSetMirror : Byte := 0x13
/-- SET PROBE. -/
def codeSetProbe : Byte := 0x14
/-- SET CAPTURE. -/
def codeSetCapture : Byte := 0x15
/-- SET OFFLOAD. -/
def codeSetOffload : Byte := 0x16
/-- LOAD. -/
def codeLoad : Byte := 0x20
/-- READ BACK. -/
def codeReadBack : Byte := 0x21
/-- APPLY. -/
def codeApply : Byte := 0x22
/-- LOOP. -/
def codeLoop : Byte := 0x30
/-- READ OFFLOAD. -/
def codeReadOffload : Byte := 0x40
/-- SENSE EVENT. -/
def codeSenseEvent : Byte := 0x41
/-- RESET PART. -/
def codeResetPart : Byte := 0x50

/-- The five targets of a LOOP request (7.2). -/
inductive LoopTarget where
  | start
  | request (t : RequestTarget)
  deriving DecidableEq, Repr

/-- The LOOP target of a byte (R201). -/
def LoopTarget.ofByte (b : Byte) : Option LoopTarget :=
  if b = 1 then some .start
  else if b = 2 then some (.request .close)
  else if b = 3 then some (.request .freeze)
  else if b = 4 then some (.request .opn)
  else if b = 5 then some (.request .stop)
  else none

/-- The code of the command in execution (R176). -/
def ExecutingCommand.code : ExecutingCommand → Byte
  | .load => codeLoad
  | .apply => codeApply
  | .loop => codeLoop

/-! ## Reading fields -/

/-- A flag byte: 00h or 01h; any other value is outside the field's range (R199, R201). -/
def readFlag (b : Byte) : Option Bool := if b = 0 then some false else if b = 1 then some true else none

/-- A slot number 0 to 3 (R4, R50). -/
def readLink (b : Byte) : Option LinkId :=
  if b = 0 then some 0 else if b = 1 then some 1 else if b = 2 then some 2 else if b = 3 then some 3 else none

/-- A trigger mode (R201). -/
def readMode (b : Byte) : Option TriggerMode :=
  if b = 0 then some .lead else if b = 1 then some .line else if b = 2 then some .timer else none

/-- A line edge (R201). -/
def readEdge (b : Byte) : Option LineEdge :=
  if b = 0 then some .rising else if b = 1 then some .falling else none

/-- A line filter (R201). -/
def readFilter (b : Byte) : Option LineFilter :=
  if b = 0 then some .off else if b = 1 then some .f2 else if b = 2 then some .f10 else if b = 3 then some .f50
  else if b = 4 then some .f200 else none

/-- A late policy (R201). -/
def readLate (b : Byte) : Option LatePolicy := if b = 0 then some .hold else if b = 1 then some .zero else none

/-- An out-of-cycle policy (R201). -/
def readOutOfCycle (b : Byte) : Option OutOfCycle :=
  if b = 0 then some .queue else if b = 1 then some .drop else none

/-- A loss action (R201). -/
def readLoss (b : Byte) : Option LossAction := if b = 0 then some .ignore else if b = 1 then some .trip else none

/-- A READ BACK copy: `true` is ACTIVE (R163, R201). -/
def readCopy (b : Byte) : Option Bool := if b = 0 then some true else if b = 1 then some false else none

/-- `x` if `c` holds: a field within its range. -/
def inRange {α : Type} (c : Bool) (x : α) : Option α := if c then some x else none

/-! ## Checking the SET commands -/

/-- The timing fields in their ranges (R4). -/
def checkTiming (x : TimingParams) : Option TimingSettings :=
  match readMode x.mode, readLink x.leadSlot, readEdge x.edge, readFilter x.filter, readFlag x.queue with
  | some mode, some lead, some edge, some filter, some queue =>
    inRange (decide (100 ≤ x.period.toNat) && decide (1 ≤ x.deadline.toNat) &&
        (x.fallback == 0 || decide (100 ≤ x.fallback.toNat)))
      { mode := mode, leadSlot := lead, edge := edge, filter := filter, delay := x.delay, period := x.period,
        deadline := x.deadline, queue := queue, fallback := x.fallback }
  | _, _, _, _, _ => none

/-- The policy fields in their ranges, the phase below the divisor (R47, R50); with the slot they name. -/
def checkSlot (x : SlotParams) : Option (LinkId × SlotPolicy) :=
  match readLink x.slot, readLate x.latePolicy, readOutOfCycle x.outOfCycle, readLoss x.lossAction with
  | some l, some late, some ooc, some loss =>
    inRange (decide (1 ≤ x.divisor.toNat) && decide (x.divisor.toNat ≤ 16) &&
        decide (x.phase.toNat < x.divisor.toNat) && decide (x.holdLimit.toNat ≤ 15))
      (l, { divisor := x.divisor.toNat, phase := x.phase.toNat, late := late, holdLimit := x.holdLimit.toNat,
            outOfCycle := ooc, lossAction := loss })
  | _, _, _, _ => none

/-- The mirror link fields in their ranges (R143). -/
def checkMirror (x : MirrorParams) : Option MirrorSettings :=
  inRange (decide (1 ≤ x.readyTimeout.toNat) && decide (1 ≤ x.ackTimeout.toNat) && decide (1 ≤ x.faultLimit.toNat) &&
      decide (x.faultLimit.toNat ≤ 15))
    { readyTimeout := x.readyTimeout, ackTimeout := x.ackTimeout, gap := x.gap, faultLimit := x.faultLimit.toNat }

/-- The probe mode: OFF, or a slot count 1 to 4 (R132). -/
def checkProbe (mode : Byte) : Option ProbeMode :=
  if mode = 0 then some .off else inRange (decide (mode.toNat ≤ 4)) (.on mode.toNat)

/-- The pattern with its parameters in their ranges (R188). -/
def checkPattern (x : CaptureParams) : Option CapturePattern :=
  if x.pattern = 0 then some .off
  else if x.pattern = 1 then inRange (decide (1 ≤ x.first.toNat)) (.every x.first.toNat)
  else if x.pattern = 2 then
    inRange (decide (1 ≤ x.first.toNat) && decide (x.first.toNat ≤ x.second.toNat)) (.burst x.first.toNat x.second.toNat)
  else if x.pattern = 3 then
    inRange (decide (1 ≤ x.first.toNat) && decide (x.first.toNat ≤ 32)) (.mask x.first.toNat x.mask)
  else none

/-- The capture settings (R188); bits 2 to 7 of the content byte are not read (R201). -/
def checkCapture (x : CaptureParams) : Option CaptureSettings :=
  (checkPattern x).map (fun p => { pattern := p, drive := x.content.getLsbD 0, residual := x.content.getLsbD 1 })

/-- The offload settings, W at most 4,096 (R194); mask bits above 3 are not read (R201). -/
def checkOffload (x : OffloadParams) : Option OffloadSettings :=
  inRange (decide (x.window.toNat ≤ 4096)) { window := x.window.toNat, mask := x.mask.extractLsb' 0 4 }

/-- The geometry of one slot: enabled, tag, slope count 32 to 1,024 in steps of 32 (R47). -/
def checkSlotGeometry (x : SlotGeometryParams) : Option (Bool × Byte × Nat) :=
  match readFlag x.enabled with
  | none => none
  | some e =>
    inRange (decide (32 ≤ x.slopeCount.toNat) && decide (x.slopeCount.toNat ≤ 1024) &&
      decide (x.slopeCount.toNat % 32 = 0)) (e, x.tag, x.slopeCount.toNat)

/-- The slope counts that enter the sum of R48: those of the enabled slots. -/
def geometrySlopes (g : Bool × Byte × Nat) : Nat := if g.1 then g.2.2 else 0

/-- The geometry in its ranges, the enabled slots' slope counts summing to at most 2,048 (R48, R84). -/
def checkGeometry (x : GeometryParams) : Option (Nat × Quad (Bool × Byte × Nat)) :=
  match checkSlotGeometry x.slots.q0, checkSlotGeometry x.slots.q1, checkSlotGeometry x.slots.q2, checkSlotGeometry x.slots.q3 with
  | some g0, some g1, some g2, some g3 =>
    inRange (decide (128 ≤ x.actuatorCount.toNat) && decide (x.actuatorCount.toNat ≤ 1024) &&
        decide (x.actuatorCount.toNat % 128 = 0) &&
        decide (geometrySlopes g0 + geometrySlopes g1 + geometrySlopes g2 + geometrySlopes g3 ≤ 2048))
      (x.actuatorCount.toNat, ⟨g0, g1, g2, g3⟩)
  | _, _, _, _ => none

/-! ## Reading a record's parameter bytes (13.4, R201) -/

/-- A complete command record, read: the command with its raw parameters. -/
inductive PortCommand where
  | getStatus
  | readCounters (clear : Byte)
  | setGeometry (x : GeometryParams)
  | setTiming (x : TimingParams)
  | setSlot (x : SlotParams)
  | setMirror (x : MirrorParams)
  | setProbe (mode : Byte)
  | setCapture (x : CaptureParams)
  | setOffload (x : OffloadParams)
  | load (x : LoadParams)
  | readBack (x : ReadBackParams)
  | apply (selection : Word)
  | loop (target : Byte)
  | readOffload
  | senseEvent
  | resetPart
  deriving DecidableEq, Repr

/-- The words of a byte list, high byte first; a last single byte makes no word. -/
def wordsOf : List Byte → List Word
  | hi :: lo :: rest => word16 hi lo :: wordsOf rest
  | [_] => []
  | [] => []

/-- The parameter length a record of code `code` must have, given its parameter bytes; `none` where no length will do
(a LOAD too short to carry its count) or the code names no command (R175, R201). -/
def requiredLength (code : Byte) (params : List Byte) : Option Nat :=
  if code = codeGetStatus then some 0
  else if code = codeReadCounters then some 1
  else if code = codeSetGeometry then some 18
  else if code = codeSetTiming then some 13
  else if code = codeSetSlot then some 7
  else if code = codeSetMirror then some 6
  else if code = codeSetProbe then some 1
  else if code = codeSetCapture then some 10
  else if code = codeSetOffload then some 3
  else if code = codeLoad then
    match params with
    | _ :: _ :: _ :: _ :: _ :: hi :: lo :: _ => some (7 + 2 * (word16 hi lo).toNat)
    | _ => none
  else if code = codeReadBack then some 8
  else if code = codeApply then some 2
  else if code = codeLoop then some 1
  else if code = codeReadOffload then some 0
  else if code = codeSenseEvent then some 0
  else if code = codeResetPart then some 0
  else none

/-- The parameter bytes a port holds for a code: those the command's parameters need; for LOAD those of the largest
LOAD the store controller accepts (R174). -/
def heldBytes (code : Byte) : Nat :=
  if code = codeLoad then 7 + 2 * Config.transferWords
  else (requiredLength code []).getD 0

/-- The command of a code and its parameter bytes, where the code names one and the bytes are those of its fixed
length (R201). -/
def readParameters (code : Byte) (params : List Byte) : Option PortCommand :=
  if code = codeGetStatus then some .getStatus
  else if code = codeReadCounters then
    match params with
    | [c] => some (.readCounters c)
    | _ => none
  else if code = codeSetGeometry then
    match params with
    | [a1, a0, e0, t0, h0, l0, e1, t1, h1, l1, e2, t2, h2, l2, e3, t3, h3, l3] =>
      some (.setGeometry ⟨word16 a1 a0,
        ⟨⟨e0, t0, word16 h0 l0⟩, ⟨e1, t1, word16 h1 l1⟩, ⟨e2, t2, word16 h2 l2⟩, ⟨e3, t3, word16 h3 l3⟩⟩⟩)
    | _ => none
  else if code = codeSetTiming then
    match params with
    | [m, ls, e, f, d1, d0, p1, p0, x1, x0, q, b1, b0] =>
      some (.setTiming ⟨m, ls, e, f, word16 d1 d0, word16 p1 p0, word16 x1 x0, q, word16 b1 b0⟩)
    | _ => none
  else if code = codeSetSlot then
    match params with
    | [s, d, p, lp, h, o, a] =>
      some (.setSlot ⟨s, d, p, lp, h, o, a⟩)
    | _ => none
  else if code = codeSetMirror then
    match params with
    | [r1, r0, a1, a0, g, l] =>
      some (.setMirror ⟨word16 r1 r0, word16 a1 a0, g, l⟩)
    | _ => none
  else if code = codeSetProbe then
    match params with
    | [m] => some (.setProbe m)
    | _ => none
  else if code = codeSetCapture then
    match params with
    | [p, c, f1, f0, s1, s0, m3, m2, m1, m0] =>
      some (.setCapture ⟨p, c, word16 f1 f0, word16 s1 s0, word32 m3 m2 m1 m0⟩)
    | _ => none
  else if code = codeSetOffload then
    match params with
    | [w1, w0, m] => some (.setOffload ⟨word16 w1 w0, m⟩)
    | _ => none
  else if code = codeLoad then
    match params with
    | s :: i3 :: i2 :: i1 :: i0 :: c1 :: c0 :: rest =>
      some (.load ⟨s, word32 i3 i2 i1 i0, word16 c1 c0, wordsOf rest⟩)
    | _ => none
  else if code = codeReadBack then
    match params with
    | [s, c, i3, i2, i1, i0, n1, n0] =>
      some (.readBack ⟨s, c, word32 i3 i2 i1 i0, word16 n1 n0⟩)
    | _ => none
  else if code = codeApply then
    match params with
    | [w1, w0] => some (.apply (word16 w1 w0))
    | _ => none
  else if code = codeLoop then
    match params with
    | [t] => some (.loop t)
    | _ => none
  else if code = codeReadOffload then some .readOffload
  else if code = codeSenseEvent then some .senseEvent
  else if code = codeResetPart then some .resetPart
  else none

end Sys2Proof.Machine
end

