-- ==== Sys2Proof/Machine/Trips.lean ====
section
/-!
DEFINITION. Trips: requesting one, holding it, taking it, and the withdrawal of a pending LOOP request (7.3, 7.5).
-/
namespace Sys2Proof.Machine

/-- The loop state controller changed by `f`. -/
def State.onLoop (s : State) (f : LoopController → LoopController) : State := { s with loop := f s.loop }

/-- The pending request, if any, ends WITHDRAWN: its result data give the loop state in force and, for SUPERSEDED, the
port of the replacing request (R119). -/
def withdrawRequest (reason : Reason) (replacedBy : Option PortId) (s : State) : State :=
  match s.loop.request with
  | none => s
  | some r =>
    (s.onLoop (fun c => { c with request := none })).withdraw r.port codeLoop reason
      (s.loop.loop.code :: (replacedBy.map portCode).toList)

/-- A trip is taken: CLOSED becomes FROZEN, the last trip record is written, LOOP-CHANGE is posted with cause TRIP and
the pending trip becomes absent (R126). A pending trip of a loop that is not CLOSED only becomes absent; no run brings
one about (R125, log 22). -/
def takeTrip (t : PendingTrip) (s : State) : State :=
  if s.loop.loop = .closed then
    (s.onLoop (fun c => { c with
      loop := .frozen
      trip := none
      lastTrip := some { cause := t.cause, additional := t.additional, cycle := s.manager.cycle,
                         time := s.manager.timebase, before := .closed } })).post
      (.loopChange .closed .frozen (.trip t.cause t.additional))
  else s.onLoop (fun c => { c with trip := none })

/-- A trip request reaches the loop state controller (R124): while a cycle is open it is held, or adds a cause to the
trip already pending, and creating the pending trip withdraws a pending request with reason TRIPPED; in ARMED it is
taken at once (R126). None is requested in IDLE (R126). -/
def requestTrip (cause : TripCause) (s : State) : State :=
  match s.manager.state with
  | .idle => s
  | .armed => takeTrip { cause := cause, additional := 0 } s
  | .gathering => holdTrip cause s
  | .closing => holdTrip cause s
where
  /-- Hold the request as the pending trip, or count it as an additional cause, stopping at 255 (R124). -/
  holdTrip (cause : TripCause) (s : State) : State :=
    match s.loop.trip with
    | some t =>
      s.onLoop (fun c => { c with
        trip := some { t with additional := if t.additional < Config.maxByteCount then t.additional + 1 else t.additional } })
    | none =>
      (withdrawRequest .tripped none s).onLoop (fun c => { c with trip := some { cause := cause, additional := 0 } })

end Sys2Proof.Machine
end

