-- ==== Sys2Proof/Machine/Slots.lean ====
section
/-!
DEFINITION. The slot controller (Chapter 3): cadence and the expected set, the treatment of a slot at a close, mute
notices, and what START, SET GEOMETRY, SET SLOT and a soft reset do to the slots.
-/
namespace Sys2Proof.Machine

/-! ## Cadence and the expected set (3.2) -/

/-- The cadence count of an enabled slot advances at a cycle open: 0 becomes N − 1, any other decreases by 1 (R51). -/
def Slot.advance (x : Slot) : Slot :=
  if x.enabled then { x with cadence := if x.cadence = 0 then x.policy.divisor - 1 else x.cadence - 1 } else x

/-- The slot is in the expected set of a cycle that opens now: enabled, not muted, and due by its count before it
advances, or the lead slot in LEAD mode (R51, R52). -/
def Slot.isExpected (x : Slot) (isLead : Bool) : Bool := x.enabled && !x.muted && (x.cadence == 0 || isLead)

/-- The lead slot in LEAD mode (R52). -/
def isLeadSlot (t : TimingSettings) (l : LinkId) : Bool := t.mode == .lead && t.leadSlot == l

/-- The attach statuses of a cycle that opens now: every expected slot WAITING (R13, R52). -/
def expectedStatuses (s : State) : Quad (Option AttachStatus) :=
  Quad.tabulate (fun l =>
    if (s.slots.get l).isExpected (isLeadSlot s.manager.settings l) then some .waiting else none)

/-! ## The treatment of a slot at a close (3.3) -/

/-- What the close does to one slot: its selection, the slot after it, the state a SLOT-CHANGE posts, and whether the
slot entered LOST (R53 to R57). -/
structure SlotClose where
  selection : Selection
  slot : Slot
  change : Option SlotState
  lost : Bool
  deriving DecidableEq, Repr

/-- The hold age increased by 1, stopping at 16 (R55, R56). -/
def olderAge (age : Nat) : Nat := if age < Config.maxAge then age + 1 else Config.maxAge

/-- The selection of a missed slot within its hold limit (R55). -/
def LatePolicy.selection : LatePolicy → Selection
  | .hold => .held
  | .zero => .zeroed

/-- An expected slot that has not arrived (R55, R56, R57). -/
def missSlot (x : Slot) : SlotClose :=
  if x.muted then { selection := .muted, slot := x, change := none, lost := false }
  else if x.state = .lost then
    { selection := .zeroed, slot := { x with age := olderAge x.age }, change := none, lost := false }
  else if olderAge x.age ≤ x.policy.holdLimit then
    { selection := x.policy.late.selection, slot := { x with age := olderAge x.age, state := .holding }, change := none,
      lost := false }
  else
    { selection := .zeroed, slot := { x with age := olderAge x.age, state := .lost }, change := some .lost, lost := true }

/-- An expected slot that has arrived (R54). -/
def arriveSlot (x : Slot) : SlotClose :=
  if x.muted then { selection := .fresh, slot := { x with age := 0 }, change := none, lost := false }
  else
    { selection := .fresh, slot := { x with age := 0, state := .active },
      change := if x.state = .lost then some .active else none, lost := false }

/-- The close of one slot with its final attach status, `none` for a slot that was not expected (R53). -/
def closeSlot (status : Option AttachStatus) (x : Slot) : SlotClose :=
  if x.enabled then
    match status with
    | none => { selection := if x.muted then .muted else .notExpected, slot := x, change := none, lost := false }
    | some .arrived => arriveSlot x
    | some .waiting => missSlot x
    | some (.attached _ _) => missSlot x
    | some .abandoned => missSlot x
  else { selection := .notExpected, slot := x, change := none, lost := false }

/-- Post a SLOT-CHANGE if there is a change to post (R60). -/
def postSlotChange (l : LinkId) (change : Option SlotState) (s : State) : State :=
  match change with
  | none => s
  | some st => s.post (.slotChange l st)

/-- A slot that entered LOST at a close requests a trip if its loss action is TRIP and the loop state recorded for the
cycle is CLOSED (R57). -/
def lossTrips (loop : LoopState) (c : SlotClose) : Bool :=
  c.lost && c.slot.policy.lossAction == .trip && loop == .closed

/-- The slot controller treats slot `l` at a close: age and state, SLOT-CHANGE, trip request (R53). -/
def treatSlot (loop : LoopState) (statuses : Quad (Option AttachStatus)) (l : LinkId) (s : State) : State :=
  let c := closeSlot (statuses.get l) (s.slots.get l)
  let t := postSlotChange l c.change (s.onSlot l (fun _ => c.slot))
  if lossTrips loop c then requestTrip (.slot l) t else t

/-- The selections of a close, from the slots as the close finds them (R53). -/
def closeSelections (statuses : Quad (Option AttachStatus)) (slots : Quad Slot) : Quad Selection :=
  Quad.tabulate (fun l => (closeSlot (statuses.get l) (slots.get l)).selection)

/-! ## Mute notices (3.4) -/

/-- A notice with flags INVALID mutes an enabled slot that is not muted (R58). -/
def muteSlot (l : LinkId) (s : State) : State :=
  if (s.slots.get l).enabled && !(s.slots.get l).muted then
    (s.onSlot l (fun x => { x with muted := true, state := .muted })).post (.slotChange l .muted)
  else s

/-- A notice with flags VALID unmutes a muted slot: LOST, with its age above the hold limit in force (R59). -/
def unmuteSlot (l : LinkId) (s : State) : State :=
  if (s.slots.get l).muted then
    (s.onSlot l (fun x => { x with muted := false, age := x.policy.holdLimit + 1, state := .lost })).post
      (.slotChange l .lost)
  else s

/-! ## START, policies, geometry, soft reset -/

/-- The state of a slot at START (R61). -/
def Slot.startState (x : Slot) : SlotState := if x.enabled then (if x.muted then .muted else .active) else .disabled

/-- START resets slot `l`: age 0, cadence count at the phase, its state, and SLOT-CHANGE if that changes (R61). -/
def startSlot (l : LinkId) (s : State) : State :=
  let x := s.slots.get l
  let t := s.onSlot l (fun x => { x with age := 0, cadence := x.policy.phase, state := x.startState })
  if x.startState = x.state then t else t.post (.slotChange l x.startState)

/-- Policy values come into force: the cadence count is set to the new phase if divisor or phase differ (R50). -/
def Slot.withPolicy (p : SlotPolicy) (x : Slot) : Slot :=
  { x with
    policy := p
    heldPolicy := none
    cadence := if p.divisor = x.policy.divisor ∧ p.phase = x.policy.phase then x.cadence else p.phase }

/-- Held SET SLOT values come into force (R50). -/
def Slot.takeHeld (x : Slot) : Slot :=
  match x.heldPolicy with
  | none => x
  | some p => x.withPolicy p

/-- SET GEOMETRY for one slot: tag and slope count, and the live state if the enabled field changes (R48). -/
def Slot.withGeometry (g : Bool × Byte × Nat) (x : Slot) : Slot :=
  let y := { x with enabled := g.1, tag := g.2.1, slopeCount := g.2.2 }
  if g.1 = x.enabled then y
  else if g.1 then { y with state := .active, age := 0, muted := false, cadence := x.policy.phase }
  else { y with state := .disabled, age := 0, muted := false }

/-- SLOT-CHANGE for a slot whose enabled field a SET GEOMETRY has changed (R48). -/
def postEnableChange (before : Quad Slot) (l : LinkId) (s : State) : State :=
  if (before.get l).enabled = (s.slots.get l).enabled then s else s.post (.slotChange l (s.slots.get l).state)

/-- A soft reset of one slot: held values in force, then mute flag clear, age 0, cadence count at the phase, and state
ACTIVE or DISABLED (R64). -/
def Slot.softReset (x : Slot) : Slot :=
  let y := x.takeHeld
  { y with muted := false, age := 0, cadence := y.policy.phase, state := if y.enabled then .active else .disabled }

end Sys2Proof.Machine
end

