-- ==== Sys2Proof/Machine/Probes.lean ====
section
/-!
DEFINITION. The probe generator (Chapter 8): amplitudes, the probe term of a position, its supply at each close, and
the coming into force of a held mode.
-/
namespace Sys2Proof.Machine

/-- `x` saturated to `lo`..`hi` (Introduction 6.2). -/
def saturate (lo hi x : Int) : Int := max lo (min x hi)

/-- `x` saturated to the range of a word. -/
def saturateWord (x : Int) : Int := saturate (-32768) 32767 x

/-- Word `i` of probe slot `p` (8.3). -/
def probeWord (probes : Cells 16) (p i : Nat) : Word := storeWord .probes probes (Config.probeSlotWords * p + i)

/-- The entries in effect of a probe slot: its count word, used as 64 above 64 (R133). -/
def probeCount (probes : Cells 16) (p : Nat) : Nat := min (probeWord probes p 0).toNat Config.probeEntries

/-- What entry `e` of probe slot `p` adds for actuator `a`: nothing if it is skipped or names another (R133, R134). -/
def probeEntry (probes : Cells 16) (count p a e : Nat) : Int :=
  let named := (probeWord probes p (2 * e + 1)).toNat
  if named < count ∧ named = a then (probeWord probes p (2 * e + 2)).toInt else 0

/-- The amplitude of actuator `a` in probe slot `p`: the exact sum of its entries, saturated once (R134). -/
def probeAmplitude (probes : Cells 16) (count p a : Nat) : Int :=
  saturateWord ((List.range (probeCount probes p)).map (probeEntry probes count p a)).sum

/-- The probe term of actuator `a` at a position: plus at even, minus at odd positions, saturated (R135). -/
def probeTerm (probes : Cells 16) (count position a : Nat) : Int :=
  if position % 2 = 0 then probeAmplitude probes count (position / 2) a
  else saturateWord (-(probeAmplitude probes count (position / 2) a))

/-- The probe terms of a close for every actuator below the count: 0 in mode OFF (R136). -/
def probeTerms (mode : ProbeMode) (position : Nat) (probes : Cells 16) (count : Nat) : Cells 16 :=
  match mode with
  | .off => []
  | .on _ => Cells.tabulate count (fun a => BitVec.ofInt 16 (probeTerm probes count position a))

/-- The position handed over: none in mode OFF (R136). -/
def handedPosition (g : ProbeGenerator) : Option Nat :=
  match g.mode with
  | .off => none
  | .on _ => some g.position

/-- The position after a hand-over: 2k − 1 becomes 0, any other p becomes p + 1; 0 while OFF (R137). -/
def ProbeGenerator.advance (g : ProbeGenerator) : ProbeGenerator :=
  match g.mode with
  | .off => { g with position := 0 }
  | .on k => { g with position := if g.position + 1 < 2 * k then g.position + 1 else 0 }

/-- A mode comes into force: the position is set to 0, whatever the mode (R132). -/
def ProbeGenerator.withMode (m : ProbeMode) : ProbeGenerator := { mode := m, held := none, position := 0 }

/-- A held mode comes into force (R132). -/
def ProbeGenerator.takeHeld (g : ProbeGenerator) : ProbeGenerator :=
  match g.held with
  | none => g
  | some m => ProbeGenerator.withMode m

/-- A soft reset: the held mode in force, the position 0 (R141). -/
def ProbeGenerator.softReset (g : ProbeGenerator) : ProbeGenerator := { g.takeHeld with position := 0 }

end Sys2Proof.Machine
end

