-- ==== Sys2Proof/Machine/Command.lean ====
section
/-!
DEFINITION. The command unit's close computation (Chapters 5 and 6), from the working set it takes at its start to the
new U, the drive vector and the three counts. Every stage is computed exactly in integers (R100).
-/
namespace Sys2Proof.Machine

/-! ## Stages 1 to 6, for one actuator -/

/-- What slot `l` adds to the error sum of actuator `a`: its held contribution if it is selected FRESH or HELD (R87). -/
def slotError (w : WorkingSet) (a : Nat) (l : LinkId) : Int :=
  match w.selections.get l with
  | .fresh => ((w.contributions.get l).at a).toInt
  | .held => ((w.contributions.get l).at a).toInt
  | .zeroed => 0
  | .notExpected => 0
  | .muted => 0

/-- Stage 1: the error sum S (R87). -/
def errorSum (w : WorkingSet) (a : Nat) : Int := (links.map (slotError w a)).sum

/-- The gain group of an actuator: its GROUPMAP word, used as 7 above 7 (R88). -/
def gainGroup (w : WorkingSet) (a : Nat) : Nat := min (storeWord .groupmap w.groupmap a).toNat 7

/-- The gain word G of the actuator's group (R88). -/
def gainOf (w : WorkingSet) (a : Nat) : Int := (storeWord .gains w.gains (2 * gainGroup w a)).toNat

/-- Λ = L + 1 of the actuator's group (R88). -/
def leakOf (w : WorkingSet) (a : Nat) : Int := (storeWord .gains w.gains (2 * gainGroup w a + 1)).toNat + 1

/-- Stage 2: the increment I (R89). `/` with a positive divisor is the floor (Introduction 6.2). -/
def increment (w : WorkingSet) (a : Nat) : Int := (gainOf w a * errorSum w a + 16384) / 32768

/-- Stage 3: the leaked integrator Lk (R90). -/
def leaked (w : WorkingSet) (a : Nat) : Int := (leakOf w a * (w.u.at a).toInt + 32768) / 65536

/-- Stage 4: the candidate V for the loop state recorded for the cycle (R91). IDLE records no cycle. -/
def candidate (w : WorkingSet) (a : Nat) : Int :=
  match w.loop with
  | .closed => leaked w a + increment w a
  | .frozen => (w.u.at a).toInt
  | .opened => 0
  | .idle => 0

/-- The offset and probe term O + Q of an actuator, not saturated (R92). -/
def offsetOf (w : WorkingSet) (a : Nat) : Int := (storeWord .offsets w.offsets a).toInt + (w.probe.at a).toInt

/-- Stage 5: the position P in Q16.16 (R92). -/
def positionOf (w : WorkingSet) (a : Nat) : Int := candidate w a + offsetOf w a * 65536

/-- Stage 5: the rounded drive R in SU (R93). -/
def rounded (w : WorkingSet) (a : Nat) : Int := (positionOf w a + 32768) / 65536

/-- LO of an actuator (R94, R104). -/
def lowLimit (w : WorkingSet) (a : Nat) : Int := (storeWord .limits w.limits (2 * a)).toInt

/-- HI of an actuator (R94, R104). -/
def highLimit (w : WorkingSet) (a : Nat) : Int := (storeWord .limits w.limits (2 * a + 1)).toInt

/-- The clamp of stages 6 and 8: max(LO, min(x, HI)) (R94, R96). -/
def clampDrive (w : WorkingSet) (a : Nat) (x : Int) : Int := max (lowLimit w a) (min x (highLimit w a))

/-! ## Stage 7: the neighbour pass (Chapter 6) -/

/-- An entry of the neighbour list: two actuators and a difference limit (6.2). -/
structure NeighbourEntry where
  first : Nat
  second : Nat
  limit : Nat
  deriving DecidableEq, Repr

/-- The entries in effect: the count word, used as 2,048 above 2,048 (R105). -/
def neighbourCount (c : Cells 16) : Nat := min (storeWord .neighbours c 0).toNat Config.neighbourEntries

/-- Entry `k` (6.2). -/
def neighbourEntry (c : Cells 16) (k : Nat) : NeighbourEntry :=
  { first := (storeWord .neighbours c (3 * k + 1)).toNat, second := (storeWord .neighbours c (3 * k + 2)).toNat,
    limit := (storeWord .neighbours c (3 * k + 3)).toNat }

/-- An entry is skipped if it names one actuator twice or an actuator not below the count (R106). -/
def NeighbourEntry.isSkipped (count : Nat) (e : NeighbourEntry) : Bool :=
  e.first == e.second || decide (count ≤ e.first) || decide (count ≤ e.second)

/-- The entries in effect that are not skipped, in list order (R105, R106). -/
def neighbourList (c : Cells 16) (count : Nat) : List NeighbourEntry :=
  ((List.range (neighbourCount c)).map (neighbourEntry c)).filter (fun e => !e.isSkipped count)

/-- Value `a` of a vector. -/
def vectorAt (v : List Int) (a : Nat) : Int := v.getD a 0

/-- By how much the pair of an entry is over its limit (R107, R108). -/
def excess (v : List Int) (e : NeighbourEntry) : Nat := (vectorAt v e.first - vectorAt v e.second).natAbs - e.limit

/-- Split an excess: the higher value decreases by ceil(e/2), the lower increases by floor(e/2) (R108). -/
def splitExcess (v : List Int) (higher lower x : Nat) : List Int :=
  (v.set higher (vectorAt v higher - ((x + 1) / 2 : Nat))).set lower (vectorAt v lower + (x / 2 : Nat))

/-- The pass takes one entry: nothing if the pair is within its limit, else the adjustment, which counts (R107, R108). -/
def passEntry (acc : List Int × Nat) (e : NeighbourEntry) : List Int × Nat :=
  if excess acc.1 e = 0 then acc
  else if vectorAt acc.1 e.second < vectorAt acc.1 e.first then
    (splitExcess acc.1 e.first e.second (excess acc.1 e), acc.2 + 1)
  else (splitExcess acc.1 e.second e.first (excess acc.1 e), acc.2 + 1)

/-- The single pass in list order: D1 and the adjustment count (R95, R107). -/
def neighbourPass (es : List NeighbourEntry) (v : List Int) : List Int × Nat := es.foldl passEntry (v, 0)

/-- The recount: the entries whose pair is over its limit in the final values (R110). -/
def neighbourResidual (es : List NeighbourEntry) (v : List Int) : Nat := es.countP (fun e => excess v e != 0)

/-! ## Stages 8 to 10 -/

/-- Stage 6 for the whole vector: D0 (R94). -/
def clampedVector (w : WorkingSet) : List Int := (List.range w.count).map (fun a => clampDrive w a (rounded w a))

/-- Stage 7: D1 and the adjustment count (R95). -/
def passedVector (w : WorkingSet) : List Int × Nat := neighbourPass (neighbourList w.neighbours w.count) (clampedVector w)

/-- Stage 8: the final drive vector D (R96). -/
def finalVector (w : WorkingSet) : List Int :=
  (List.range w.count).map (fun a => clampDrive w a (vectorAt (passedVector w).1 a))

/-- Stage 9: the new integrator of an actuator whose final drive is `d` (R97, R98). -/
def newIntegrator (w : WorkingSet) (a : Nat) (d : Int) : Int :=
  match w.loop with
  | .opened => 0
  | .idle => 0
  | .closed => if d = rounded w a then candidate w a else (d - offsetOf w a) * 65536
  | .frozen => if d = rounded w a then candidate w a else (d - offsetOf w a) * 65536

/-- What the close computation produces: U, D and the three counts (R86). -/
structure CloseResult where
  u : Cells 40
  d : Cells 16
  counts : CloseCounts
  deriving DecidableEq, Repr

/-- The close computation. Entries at or above the actuator count are 0 in U and D (R84, R86). -/
def closeResult (w : WorkingSet) : CloseResult :=
  let final := finalVector w
  { u := Cells.tabulate w.count (fun a => BitVec.ofInt 40 (newIntegrator w a (vectorAt final a)))
    d := Cells.tabulate w.count (fun a => BitVec.ofInt 16 (vectorAt final a))
    counts :=
      { limited := (List.range w.count).countP (fun a => vectorAt final a != rounded w a)
        adjustments := (passedVector w).2
        residual := neighbourResidual (neighbourList w.neighbours w.count) final } }

/-- The unit takes its working set: it passes from READY to COMPUTING (R85). -/
def startComputation (selections : Quad Selection) (loop : LoopState) (s : State) : State :=
  { s with
    command := { s.command with
      working := some
        { selections := selections, contributions := s.engine.held, loop := loop, gains := s.stores.active.gains,
          groupmap := s.stores.active.groupmap, offsets := s.stores.active.offsets, limits := s.stores.active.limits,
          neighbours := s.stores.active.neighbours,
          probe := probeTerms s.probe.mode s.probe.position s.stores.active.probes s.command.actuatorCount,
          count := s.command.actuatorCount, u := s.command.u } }
    probe := s.probe.advance }

/-- A soft reset: the computation given up, U cleared, D and the actuator count kept (R103). -/
def CommandUnit.softReset (c : CommandUnit) : CommandUnit := { c with u := [], working := none }

end Sys2Proof.Machine
end

