-- ==== Sys2Proof/Machine/Engine.lean ====
section
/-!
DEFINITION. The reconstruction engine (Chapter 4): attachment records, the group operation, the arbiter's search,
discard, the copy at a close, START and reset. The moments at which the engine acts are in Attach.lean.
-/
namespace Sys2Proof.Machine

/-- The engine changed by `f`. -/
def State.onEngine (s : State) (f : Engine → Engine) : State := { s with engine := f s.engine }

/-! ## Attachment and discard -/

/-- A frame of `groups` groups attaches: fresh contribution cleared, record created (R67). -/
def Engine.attach (l : LinkId) (sequence : Word) (groups : Nat) (e : Engine) : Engine :=
  { e with
    fresh := e.fresh.set l []
    records := e.records.set l (some { sequence := sequence, groups := groups, done := 0, state := .accumulating }) }

/-- The void mark set on the operation in flight if it belongs to slot `l` (R75). -/
def voidFor (l : LinkId) (o : Operation) : Operation := if o.slot = l then { o with isVoid := true } else o

/-- A discard notice for slot `l`, whose slopes are `count` from index `base` (R75). -/
def Engine.discard (l : LinkId) (base count : Nat) (e : Engine) : Engine :=
  match e.records.get l with
  | none => e
  | some r =>
    match r.state with
    | .discarded => e
    | .accumulating => drop r
    | .multiplied => drop r
where
  /-- The four effects of R75. -/
  drop (r : Attachment) : Engine :=
    { e with
      fresh := e.fresh.set l []
      residuals := Cells.clearRange base count e.residuals
      inFlight := e.inFlight.map (voidFor l)
      records := e.records.set l (some { r with state := .discarded }) }

/-! ## The group operation (4.5) -/

/-- The residual of a slope: slope minus reference, saturated (R72). -/
def residualOf (slope reference : Word) : Word := BitVec.ofInt 16 (saturateWord (slope.toInt - reference.toInt))

/-- The residuals of consecutive slopes from slope index `j` (R72). -/
def residualsFrom (refs : Cells 16) : Nat → List Word → List Word
  | _, [] => []
  | j, x :: xs => residualOf x (storeWord .refslopes refs j) :: residualsFrom refs (j + 1) xs

/-- The group sum for actuator `a`: residual times the MATRIX word at j × 1,024 + a, over the group (R73). -/
def groupSum (matrix : Cells 16) (a : Nat) : Nat → List Word → Int
  | _, [] => 0
  | j, r :: rs =>
    r.toInt * (storeWord .matrix matrix (j * Config.matrixStride + a)).toInt + groupSum matrix a (j + 1) rs

/-- The operation on group `g` of slot `l`, whose first slope index is `first`: it takes the slopes, the active
REFSLOPES words and MATRIX rows and the actuator count, and holds its residuals and sums (R71 to R73, log 17). -/
def groupOperation (stores : Stores) (count : Nat) (l : LinkId) (g first : Nat) (slopes : List Word) : Operation :=
  let residuals := residualsFrom stores.refslopes first slopes
  { slot := l, group := g, isVoid := false, firstIndex := first, residuals := residuals,
    sums := Cells.tabulate count (fun a => BitVec.ofInt 48 (groupSum stores.matrix a first residuals)) }

/-- Entry by entry sum of two contributions (R74). -/
def addContribution (x y : Cells 48) : Cells 48 := Cells.tabulate Config.actuators (fun a => x.at a + y.at a)

/-- The record after one more group is done; MULTIPLIED with the last (R74). -/
def Attachment.countGroup (r : Attachment) : Attachment :=
  { r with done := r.done + 1, state := if r.done + 1 = r.groups then .multiplied else r.state }

/-- The commit of an operation that is not void: sums, residuals, groups done (R74). -/
def Engine.commit (o : Operation) (e : Engine) : Engine :=
  { e with
    inFlight := none
    fresh := quadModify e.fresh o.slot (fun c => addContribution c o.sums)
    residuals := Cells.writeList zeroCell e.residuals o.firstIndex o.residuals
    records := quadModify e.records o.slot (Option.map Attachment.countGroup) }

/-- The operation was the last of its frame: the last-group report is due (R74). -/
def Engine.isMultiplied (l : LinkId) (e : Engine) : Bool :=
  match e.records.get l with
  | none => false
  | some r => r.state == .multiplied

/-! ## The arbiter (4.4) -/

/-- Slot `l` is a candidate: record ACCUMULATING, the attached frame at the head, and a group in it (R68). -/
def isCandidate (s : State) (l : LinkId) : Bool :=
  match s.engine.records.get l, (s.receivers.get l).fifo with
  | some r, e :: _ => r.state == .accumulating && e.attached && !e.groups.isEmpty
  | _, _ => false

/-- The search from the pointer, ascending with wrap, to the first candidate (R69). -/
def searchOrder (p : LinkId) : List LinkId := [p, p + 1, p + 2, p + 3]

/-- The slot the arbiter chooses, if there is a candidate (R69). -/
def arbiterChoice (s : State) : Option LinkId := (searchOrder s.engine.pointer).find? (isCandidate s)

/-! ## Close, START, reset -/

/-- At a close: fresh copied to held for each slot selected FRESH, and every attachment record removed (R78). -/
def Engine.close (selections : Quad Selection) (e : Engine) : Engine :=
  { e with
    held := Quad.tabulate (fun l => if selections.get l = .fresh then e.fresh.get l else e.held.get l)
    records := Quad.fill none }

/-- START: contributions cleared and the pointer at 0 (R80). -/
def Engine.start (e : Engine) : Engine := { e with fresh := Quad.fill [], held := Quad.fill [], pointer := 0 }

end Sys2Proof.Machine
end

