-- ==== Sys2Proof/Machine/Close.lean ====
section
/-!
DEFINITION. Closing a cycle (1.7): the deadline's abandonment of attached frames and the six steps of R19.
-/
namespace Sys2Proof.Machine

/-- The attach status of slot `l` in the open record changed to `st` (1.6). -/
def setStatus (l : LinkId) (st : AttachStatus) (s : State) : State :=
  s.onManager (fun m => { m with
    openRecord := m.openRecord.map (fun o => { o with statuses := o.statuses.set l (some st) }) })

/-- The attach status of slot `l`, if a cycle is open and the slot is expected in it. -/
def statusOf (l : LinkId) (s : State) : Option AttachStatus :=
  match s.manager.openRecord with
  | none => none
  | some o => o.statuses.get l

/-- The sequence field of a slot at close: the attached sequence if FRESH, else the received sequence (R21, R41). -/
def sequenceField (sel : Selection) (r : Receiver) : Word := if sel = .fresh then r.attachedSeq else r.receivedSeq

/-- The manager enters CLOSING with the deadline timer stopped (R19). -/
def enterClosing (s : State) : State := s.onManager (fun m => { m with state := .closing, deadline := none })

/-- The slot controller treats the slots in ascending order as the cycle closes (R19, R53). -/
def treatSlots (o : OpenRecord) (s : State) : State :=
  forLinks (treatSlot o.opened.loop o.statuses) links (enterClosing s)

/-- The close fields of the cycle record: the close is stamped, with the selections, ages and sequences of the slots
(R19, R21), the probe position and the latest writeout report as the close computation starts (R136, R153). -/
def closeInfo (cause : CloseCause) (o : OpenRecord) (s : State) : CloseInfo :=
  { cause := cause
    time := s.manager.timebase
    selections := closeSelections o.statuses s.slots
    ages := (treatSlots o s).slots.map Slot.age
    sequences := Quad.tabulate (fun l =>
      sequenceField ((closeSelections o.statuses s.slots).get l) (s.receivers.get l))
    probePosition := handedPosition s.probe
    previous := s.mirror.latest }

/-- A cycle closes with `cause` (R19): the deadline timer stops, the close is stamped, the manager enters CLOSING, the
slot controller selects, the engine copies, and the close computation starts. -/
def closeCycle (cause : CloseCause) (s : State) : State :=
  match s.manager.openRecord with
  | none => s
  | some o =>
    (startComputation (closeSelections o.statuses s.slots) o.opened.loop
      ((treatSlots o s).onEngine (Engine.close (closeSelections o.statuses s.slots)))).onManager
      (fun m => { m with openRecord := some { o with closing := some (closeInfo cause o s) } })

/-- Every expected slot has arrived (R16). An empty expected set has (R13). -/
def allArrived (o : OpenRecord) : Bool :=
  links.all (fun l => match o.statuses.get l with
    | none => true
    | some .arrived => true
    | some .waiting => false
    | some (.attached _ _) => false
    | some .abandoned => false)

/-- The cycle closes with cause COMPLETE once every expected slot has arrived (R16). -/
def closeIfComplete (s : State) : State :=
  match s.manager.state, s.manager.openRecord with
  | .gathering, some o => if allArrived o then closeCycle .complete s else s
  | _, _ => s

/-- A frame in STORING goes on in DISCARDING (R39, R43). -/
def Reception.toDiscarding : Reception → Reception
  | .storing f => .discarding { f with slopes := [] }
  | .off => .off
  | .between => .between
  | .header f => .header f
  | .discarding f => .discarding f
  | .draining => .draining

/-- The receiver abandons its attached frame with cause DEADLINE: counted, its groups and entry removed, and the rest
of a frame still in reception received in DISCARDING (R39). An attached frame whose groups have all been taken after
its END has no entry left. -/
def Receiver.abandonDeadline (r : Receiver) : Receiver :=
  let counted := { r with counters := { r.counters with deadline := Counter.increase r.counters.deadline } }
  match r.fifo with
  | [] => counted
  | e :: rest =>
    if e.attached then
      { counted.withFewer rest with
        reception := if e.verified then r.reception else r.reception.toDiscarding }
    else counted

/-- The discard notice of slot `l` with the slot's slope indices (R75). -/
def discardSlot (l : LinkId) (s : State) : State :=
  s.onEngine (Engine.discard l (slopeBase s.slots l) (s.slots.get l).slopeCount)

/-- At a deadline, a slot with status ATTACHED has its frame abandoned: receiver, engine and status (R18, R39). The
frame behind is offered to a manager that is then CLOSING, which refuses it (R39). -/
def abandonAtDeadline (l : LinkId) (s : State) : State :=
  match statusOf l s with
  | some (.attached _ _) => setStatus l .abandoned (discardSlot l (s.onReceiver l Receiver.abandonDeadline))
  | some .waiting => s
  | some .arrived => s
  | some .abandoned => s
  | none => s

/-- The deadline expires in GATHERING (R18). -/
def deadlineClose (s : State) : State :=
  closeCycle .deadline
    (forLinks abandonAtDeadline links
      (s.onManagerCounters (fun c => { c with deadlineCloses := Counter.increase c.deadlineCloses })))

end Sys2Proof.Machine
end

