-- ==== Sys2Proof/Machine/Attach.lean ====
section
/-!
DEFINITION. Offers, attachment, the engine's choices and the reports of arrival (1.6, 4.3, 4.4), and the opening of a
cycle (1.4, 1.5).
-/
namespace Sys2Proof.Machine

/-- The head entry of a FIFO marked attached. -/
def attachHead : List FifoEntry → List FifoEntry
  | [] => []
  | e :: rest => { e with attached := true } :: rest

/-- The frame of entry `e` attaches to the open cycle (R15, R67): status ATTACHED, with the verification reported if
its END is already verified (R35); the receiver records the attached sequence (R41). -/
def attach (l : LinkId) (e : FifoEntry) (s : State) : State :=
  ((setStatus l (.attached e.verified false) s).onReceiver l (fun r =>
      { r with fifo := attachHead r.fifo, attachedSeq := e.sequence })).onEngine
    (Engine.attach l e.sequence ((s.slots.get l).slopeCount / Config.groupSize))

/-- The receiver offers its head frame; it attaches in GATHERING if its slot is expected and WAITING (R15). -/
def offerHead (l : LinkId) (s : State) : State :=
  match s.manager.state, (s.receivers.get l).fifo, statusOf l s with
  | .gathering, e :: _, some .waiting => if e.attached then s else attach l e s
  | _, _, _ => s

/-- The FIFO after the engine takes the oldest group of its head entry; the entry leaves with its last group once its
END is verified (R33, R71). -/
def takeOldest : List FifoEntry → List FifoEntry
  | [] => []
  | e :: rest =>
    if e.verified && e.groups.tail.isEmpty then rest
    else { e with groups := e.groups.tail, taken := e.taken + 1 } :: rest

/-- The engine takes the oldest group of slot `l`: the operation starts, the group leaves the FIFO, the pointer moves
past the slot, and a frame that has become first is offered (R33, R69, R71). -/
def takeGroup (l : LinkId) (s : State) : State :=
  match (s.receivers.get l).fifo with
  | [] => s
  | e :: rest =>
    match e.groups with
    | [] => s
    | g :: _ =>
      let op := groupOperation s.stores.active s.command.actuatorCount l e.taken
        (slopeBase s.slots l + Config.groupSize * e.taken) g
      offerHead l ((s.onEngine (fun x => { x with inFlight := some op, pointer := l + 1 })).onReceiver l
        (Receiver.withFewer (takeOldest (e :: rest))))

/-- The engine makes a choice if no operation is in flight (R70). -/
def engineChoose (s : State) : State :=
  match s.engine.inFlight with
  | some _ => s
  | none =>
    match arbiterChoice s with
    | none => s
    | some l => takeGroup l s

/-- The status after a report for a slot, ARRIVED with the second of the two reports (R16). -/
def reportedStatus (verified lastGroup : Bool) : AttachStatus :=
  if verified && lastGroup then .arrived else .attached verified lastGroup

/-- The receiver's verification report is taken (R16, R35). It finds a slot not ATTACHED and is ignored, or not. -/
def reportVerified (l : LinkId) (s : State) : State :=
  match statusOf l s with
  | some (.attached _ g) => closeIfComplete (setStatus l (reportedStatus true g) s)
  | some .waiting => s
  | some .arrived => s
  | some .abandoned => s
  | none => s

/-- The engine's last-group report is taken (R16, R74); with the slot ABANDONED it is ignored (R17). -/
def reportLastGroup (l : LinkId) (s : State) : State :=
  match statusOf l s with
  | some (.attached v _) => closeIfComplete (setStatus l (reportedStatus v true) s)
  | some .waiting => s
  | some .arrived => s
  | some .abandoned => s
  | none => s

/-! ## Opening a cycle (1.5) -/

/-- The number of the next cycle: after the largest comes 1 (R13). -/
def nextCycle (n : Counter) : Counter := if n = BitVec.allOnes 32 then 1 else n + 1

/-- The record of a cycle that opens now (R13), with the loop state, the generation and every setting in force (R21). -/
def newRecord (cause : OpenCause) (lateStart : Bool) (s : State) : OpenRecord :=
  { opened := { cycle := nextCycle s.manager.cycle, cause := cause, lateStart := lateStart, time := s.manager.timebase,
                loop := s.loop.loop, generation := s.stores.generation, settings := s.settingsInForce }
    statuses := expectedStatuses s
    closing := none }

/-- A cycle opens (R13). The fallback stops as the manager leaves ARMED (R7). An empty expected set starts no deadline
timer and closes at once; else the deadline starts, every receiver whose slot is expected offers its head frame, and
the engine, if idle, makes one choice among what has attached (R70, log 10). -/
def openCycle (cause : OpenCause) (lateStart : Bool) (s : State) : State :=
  let o := newRecord cause lateStart s
  let s1 : State :=
    { s with
      manager := { s.manager with state := .gathering, cycle := o.opened.cycle, openRecord := some o, fallback := none }
      slots := s.slots.map Slot.advance
      engine := { s.engine with residuals := [] } }
  if allArrived o then closeCycle .complete s1
  else engineChoose (forLinks offerHead links
    (s1.onManager (fun m => { m with deadline := Timer.start m.settings.deadline })))

/-- The lead trigger condition (R6): LEAD mode, ARMED, the lead slot not muted, and a frame with accepted header first
in its FIFO. -/
def leadCondition (s : State) : Bool :=
  s.manager.settings.mode == .lead && s.manager.state == .armed && !(s.slots.get s.manager.settings.leadSlot).muted &&
    !(s.receivers.get s.manager.settings.leadSlot).fifo.isEmpty

/-- The cycle opens with cause LEAD as soon as the condition holds (R6). -/
def evalLead (s : State) : State := if leadCondition s then openCycle .lead false s else s

/-- A frame entry has left the FIFO of `l`: the frame behind is offered, the lead condition is evaluated, and an idle
engine makes a choice (R6, R33, R70). -/
def afterDeparture (l : LinkId) (s : State) : State := engineChoose (evalLead (offerHead l s))

/-- The cause of a latched trigger as an open cause. -/
def LatchedCause.openCause : LatchedCause → OpenCause
  | .line => .line
  | .timer => .timer

/-- A trigger in GATHERING or CLOSING is latched, or discarded and counted (R11). -/
def latchTrigger (cause : LatchedCause) (s : State) : State :=
  if s.manager.settings.queue && s.manager.latch.isNone then s.onManager (fun m => { m with latch := some cause })
  else s.onManagerCounters (fun c => { c with droppedTriggers := Counter.increase c.droppedTriggers })

/-- A LINE or TIMER trigger is produced (R9 to R11, 1.4). In IDLE no trigger is generated. -/
def produceTrigger (cause : LatchedCause) (s : State) : State :=
  match s.manager.state with
  | .idle => s
  | .armed => openCycle cause.openCause false s
  | .gathering => latchTrigger cause s
  | .closing => latchTrigger cause s

/-- The lead fallback starts if its setting is not 0 (R7). -/
def startFallback (s : State) : State :=
  if s.manager.settings.fallback = 0 then s
  else s.onManager (fun m => { m with fallback := Timer.start m.settings.fallback })

/-- The manager enters ARMED (R12): a latched trigger opens a cycle with the late-start flag; else in LEAD mode the
lead condition is evaluated, and the fallback starts if it does not hold. -/
def enterArmed (s : State) : State :=
  match s.manager.latch with
  | some cause =>
    openCycle cause.openCause true
      ((s.onManager (fun m => { m with state := .armed, latch := none })).onManagerCounters
        (fun c => { c with lateStarts := Counter.increase c.lateStarts }))
  | none =>
    let t := s.onManager (fun m => { m with state := .armed })
    if t.manager.settings.mode = .lead then
      (if leadCondition t then openCycle .lead false t else startFallback t)
    else t

/-- A trigger held in the latch is removed and counted as dropped (R2, R5). -/
def dropLatch (s : State) : State :=
  (s.onManagerCounters (fun c => { c with
    droppedTriggers := Counter.increaseIf s.manager.latch.isSome c.droppedTriggers })).onManager
    (fun m => { m with latch := none })

/-- The manager enters IDLE: the line delay, period, deadline and fallback timers stop, and a latched trigger is
dropped (R2). -/
def managerToIdle (s : State) : State :=
  (dropLatch s).onManager (fun m => { m with
    state := .idle, lineDelay := none, period := none, deadline := none, fallback := none })

end Sys2Proof.Machine
end

