-- ==== Sys2Proof/Machine/Timing.lean ====
section
/-!
DEFINITION. The timing line input, the cycle timers, the coming into force of timing settings (1.2 to 1.4), and the
commands of this family: TIMING_LINE_CHANGE, the expiries, TIMEBASE_TICK and SET_TIMING.
-/
namespace Sys2Proof.Machine

/-- A command taken at port `p` has the effect `f` if the port can take a command: its record is the one just complete
(R174, R175). In EXECUTING and RESULT a port takes none (R172, log 8). -/
def State.arrive (p : PortId) (f : State → State) (s : State) : State :=
  if (s.ports.get p).takesCommand then f s else s

/-! ## The timing line (R8, R9) -/

/-- The filter time in time units; 0 for OFF (R4). -/
def LineFilter.units : LineFilter → Word
  | .off => 0
  | .f2 => 2
  | .f10 => 10
  | .f50 => 50
  | .f200 => 200

/-- A passed edge (R9): counted as an overlap while the delay runs, a trigger at once with delay 0, else it starts the
delay. -/
def passEdge (s : State) : State :=
  match s.manager.lineDelay with
  | some _ => s.onManagerCounters (fun c => { c with lineOverlaps := Counter.increase c.lineOverlaps })
  | none =>
    if s.manager.settings.delay = 0 then produceTrigger .line s
    else s.onManager (fun m => { m with lineDelay := Timer.start m.settings.delay })

/-- The edge is of the selected polarity: rising to high, falling to low (R8). -/
def LineEdge.selects (e : LineEdge) (level : Bool) : Bool :=
  match e with
  | .rising => level
  | .falling => !level

/-- A filtered edge is passed on in LINE mode unless the manager is IDLE; every other is ignored (R8). -/
def filteredEdge (level : Bool) (s : State) : State :=
  if s.manager.settings.edge.selects level && s.manager.settings.mode == .line && s.manager.state != .idle then
    passEdge s
  else s

/-- The filtered level takes the raw level; a change is a filtered edge (R8). -/
def filterTakes (s : State) : State :=
  let t := { s with line := { s.line with filtered := s.line.raw, measuring := none } }
  if s.line.raw = s.line.filtered then t else filteredEdge s.line.raw t

/-- The filter measures a raw level that differs from the filtered level from now on; with the filter OFF it takes it
at once (R8). A raw level equal to the filtered level leaves nothing to measure. -/
def startMeasuring (s : State) : State :=
  if s.line.raw = s.line.filtered then { s with line := { s.line with measuring := none } }
  else if s.manager.settings.filter = .off then filterTakes s
  else { s with line := { s.line with measuring := Timer.start s.manager.settings.filter.units } }

/-! ## Timing settings come into force (R5) -/

/-- The timer belonging to a trigger mode stops: line delay, period timer or fallback (R5). -/
def stopModeTimer (mode : TriggerMode) (s : State) : State :=
  match mode with
  | .line => s.onManager (fun m => { m with lineDelay := none })
  | .timer => s.onManager (fun m => { m with period := none })
  | .lead => s.onManager (fun m => { m with fallback := none })

/-- The period timer starts if the mode in force is TIMER and the manager is not IDLE (R5, R10). -/
def startPeriod (s : State) : State :=
  if s.manager.settings.mode = .timer ∧ s.manager.state ≠ .idle then
    s.onManager (fun m => { m with period := Timer.start m.settings.period })
  else s

/-- A change of trigger mode: the timer of the mode left stops, a latched trigger is dropped, and the period timer
starts for TIMER; the fallback for LEAD starts with `leadInForce` (R5). -/
def changeMode (old : TriggerMode) (s : State) : State :=
  if s.manager.settings.mode = old then s else startPeriod (dropLatch (stopModeTimer old s))

/-- A new filter or edge setting starts a measurement in progress again (R5, log 7). -/
def changeFilter (old : TimingSettings) (s : State) : State :=
  if (s.manager.settings.filter ≠ old.filter ∨ s.manager.settings.edge ≠ old.edge) ∧ s.line.measuring ≠ none then
    startMeasuring s
  else s

/-- LEAD mode in force in ARMED: the fallback starts if none runs, and the lead condition is evaluated (R5 to R7). -/
def leadInForce (s : State) : State :=
  if s.manager.settings.mode = .lead ∧ s.manager.state = .armed then
    evalLead (if s.manager.fallback = none then startFallback s else s)
  else s

/-- Timing settings come into force (R5). -/
def applyTiming (t : TimingSettings) (s : State) : State :=
  let old := s.manager.settings
  leadInForce (changeFilter old (changeMode old.mode
    (s.onManager (fun m => { m with settings := t, held := none }))))

/-- Held SET TIMING values, if any, come into force (R5). -/
def takeHeldTiming (s : State) : State :=
  match s.manager.held with
  | none => s
  | some t => applyTiming t s

/-- SET TIMING at port `p` (R4, R5): a field out of range, or LEAD mode outside loop IDLE with a lead slot not enabled,
refuses it; else its values are held while a cycle is open, or come into force at once. -/
def setTiming (p : PortId) (x : TimingParams) (s : State) : State :=
  match checkTiming x with
  | none => s.reject p codeSetTiming .badParameter
  | some t =>
    if t.mode = .lead ∧ s.loop.loop ≠ .idle ∧ (s.slots.get t.leadSlot).enabled = false then
      s.reject p codeSetTiming .badParameter
    else if s.cycleIsOpen then
      (s.onManager (fun m => { m with held := some t })).complete p codeSetTiming (t.bytes ++ [1])
    else (applyTiming t s).complete p codeSetTiming (t.bytes ++ [0])

/-! ## The commands -/

/-- TIMING_LINE_CHANGE (R8): the raw level changes, which is a filtered change at once with the filter OFF, or starts
(or, back at the filtered level, ends) the filter's measurement. While the reset acts only the levels follow the pin
(R8, R23, log 5). -/
def execTimingLineChange (s : State) : Host.Outcome State Fault Refusal :=
  let t := { s with line := { s.line with raw := !s.line.raw } }
  .next (if s.resetActs then { t with line := { t.line with filtered := t.line.raw, measuring := none } }
    else startMeasuring t)

/-- LINE_FILTER_EXPIRY (R8): the raw level has stayed at its new value for the filter time. -/
def execLineFilterExpiry (s : State) : Host.Outcome State Fault Refusal :=
  s.unlessReset (fun s => if Timer.isDue s.line.measuring then filterTakes s else s)

/-- LINE_DELAY_EXPIRY (R9): a trigger with cause LINE. -/
def execLineDelayExpiry (s : State) : Host.Outcome State Fault Refusal :=
  s.unlessReset (fun s =>
    if Timer.isDue s.manager.lineDelay then produceTrigger .line (s.onManager (fun m => { m with lineDelay := none }))
    else s)

/-- PERIOD_EXPIRY (R10): a trigger with cause TIMER, and the next period starts with the value in force. -/
def execPeriodExpiry (s : State) : Host.Outcome State Fault Refusal :=
  s.unlessReset (fun s =>
    if Timer.isDue s.manager.period then
      produceTrigger .timer (s.onManager (fun m => { m with period := Timer.start m.settings.period }))
    else s)

/-- FALLBACK_EXPIRY (R7): in ARMED a cycle opens with cause FALLBACK, and a fallback open is counted. -/
def execFallbackExpiry (s : State) : Host.Outcome State Fault Refusal :=
  s.unlessReset (fun s =>
    if Timer.isDue s.manager.fallback && s.manager.state == .armed then
      openCycle .fallback false
        (s.onManagerCounters (fun c => { c with fallbackOpens := Counter.increase c.fallbackOpens }))
    else s)

/-- DEADLINE_EXPIRY (R18): in GATHERING the cycle closes with cause DEADLINE. -/
def execDeadlineExpiry (s : State) : Host.Outcome State Fault Refusal :=
  s.unlessReset (fun s =>
    if Timer.isDue s.manager.deadline && s.manager.state == .gathering then deadlineClose s else s)

/-- The timer of a writeout phase runs down (9.3). -/
def WritePhase.tick : WritePhase → WritePhase
  | .addressing => .addressing
  | .sending => .sending
  | .waitReady t => .waitReady (if t = 0 then 0 else t - 1)
  | .waitAck t => .waitAck (if t = 0 then 0 else t - 1)
  | .gap t => .gap (if t = 0 then 0 else t - 1)

/-- The timer of the writeout in flight runs down. -/
def LinkActivity.tick : LinkActivity → LinkActivity
  | .idle => .idle
  | .writing w ph => .writing w ph.tick

/-- TIMEBASE_TICK (R3): the timebase advances by 1, wrapping after its largest value, and every running timer runs down
by a time unit (log 3). -/
def execTimebaseTick (s : State) : Host.Outcome State Fault Refusal :=
  .next { s with
    line := { s.line with measuring := Timer.tick s.line.measuring }
    manager := { s.manager with
      timebase := s.manager.timebase + 1
      lineDelay := Timer.tick s.manager.lineDelay
      period := Timer.tick s.manager.period
      deadline := Timer.tick s.manager.deadline
      fallback := Timer.tick s.manager.fallback }
    mirror := { s.mirror with activity := s.mirror.activity.tick } }

/-- SET_TIMING taken at port `p` (R4, R5). -/
def execSetTiming (p : PortId) (x : TimingParams) (s : State) : Host.Outcome State Fault Refusal :=
  s.unlessReset (State.arrive p (setTiming p x))

end Sys2Proof.Machine
end

