-- ==== Sys2Proof/Machine/Links.lean ====
section
/-!
DEFINITION. The link receivers (Chapter 2): lock, frame reception, the checks, the staging FIFO, abandonment, sequence
numbers and NOTICE frames; and the commands LINK_START_SYMBOL, LINK_DATA_SYMBOL, LINK_END_SYMBOL, LINK_FILL_SYMBOL,
LINK_INVALID_SYMBOL; and GROUP_OPERATION_END, the engine's own command.
-/
namespace Sys2Proof.Machine

/-- The symbols of a sensor link (R25). -/
inductive LinkSymbol where
  | start
  | data (w : Word)
  | fin
  | fill
  | invalid
  deriving DecidableEq, Repr

/-- The symbol decodes to none of the link's symbols (R25). -/
def LinkSymbol.isInvalid : LinkSymbol → Bool
  | .invalid => true
  | .start => false
  | .data _ => false
  | .fin => false
  | .fill => false

/-- The abandonment causes that a receiver takes in reception (R38). -/
inductive AbandonCause where
  | framing | lock | crc | overrun
  deriving DecidableEq, Repr

/-- The counters changed by `f`. -/
def Receiver.count (f : ReceiverCounters → ReceiverCounters) (r : Receiver) : Receiver :=
  { r with counters := f r.counters }

/-- The abandoned-frame counter of a cause increased (R38, R44). -/
def ReceiverCounters.abandon (cause : AbandonCause) (c : ReceiverCounters) : ReceiverCounters :=
  match cause with
  | .framing => { c with framing := Counter.increase c.framing }
  | .lock => { c with lock := Counter.increase c.lock }
  | .crc => { c with crc := Counter.increase c.crc }
  | .overrun => { c with overrun := Counter.increase c.overrun }

/-- Reception in a state. -/
def setReception (l : LinkId) (x : Reception) (s : State) : State := s.onReceiver l (fun r => { r with reception := x })

/-! ## Abandonment in reception (R38) -/

/-- The report of an attached frame's abandonment (R17, R38): in GATHERING an ATTACHED slot becomes ABANDONED, and the
engine discards. -/
def reportAbandoned (l : LinkId) (s : State) : State :=
  discardSlot l (match statusOf l s with
    | some (.attached _ _) => setStatus l .abandoned s
    | some .waiting => s
    | some .arrived => s
    | some .abandoned => s
    | none => s)

/-- The last entry of a FIFO is attached. -/
def lastAttached (fifo : List FifoEntry) : Bool :=
  match fifo.getLast? with
  | none => false
  | some e => e.attached

/-- The frame in STORING, whose entry is the newest of the FIFO, is abandoned: its groups and entry removed, and for an
attached frame the report and the discard notice (R38 items 2 and 3). -/
def removeStored (l : LinkId) (s : State) : State :=
  let fifo := (s.receivers.get l).fifo
  let t := s.onReceiver l (Receiver.withFewer fifo.dropLast)
  afterDeparture l (if lastAttached fifo then reportAbandoned l t else t)

/-- The frame in reception, if it is in HEADER, STORING or DISCARDING, is abandoned with `cause`, and reception goes on
in `next` (R37, R38, R40). Otherwise reception goes on in `next` without a count. -/
def abandonInto (l : LinkId) (cause : AbandonCause) (next : Reception) (s : State) : State :=
  let counted := (setReception l next s).onReceiver l (Receiver.count (ReceiverCounters.abandon cause))
  match (s.receivers.get l).reception with
  | .header _ => counted
  | .discarding _ => counted
  | .storing _ => removeStored l counted
  | .off => setReception l next s
  | .between => setReception l next s
  | .draining => setReception l next s

/-! ## Headers (R31, R32) -/

/-- A frame begins: no words taken, the CRC register at all ones, checked against the slot's fields now in force (R28
to R30). -/
def newFrame (x : Slot) : RxFrame :=
  { taken := 0, crc := crcInit, word0 := 0, sequence := 0, word2 := 0, crcWord := 0, slopes := [], tag := x.tag,
    slopeCount := x.slopeCount }

/-- START begins a frame in HEADER, or in DRAINING on the link of a disabled slot (R29, R30). -/
def beginFrame (x : Slot) : Reception := if x.enabled then .header (newFrame x) else .draining

/-- The kind byte of word 0 (13.2). -/
def RxFrame.kind (f : RxFrame) : Byte := f.word0.extractLsb' 8 8

/-- The sensor tag of word 0 (13.2). -/
def RxFrame.sensorTag (f : RxFrame) : Byte := f.word0.extractLsb' 0 8

/-- DATA (13.2). -/
def RxFrame.isData (f : RxFrame) : Bool := f.kind == 0x01

/-- NOTICE (13.2). -/
def RxFrame.isNotice (f : RxFrame) : Bool := f.kind == 0x02

/-- The expected word count: 3 + slope count + 1 for DATA, 4 for NOTICE (R29). -/
def RxFrame.expected (f : RxFrame) : Nat := if f.isData then 4 + f.word2.toNat else 4

/-- What the header checks decide (R31). -/
inductive HeaderOutcome where
  | rejectedKind | rejectedTag | rejectedLength | accepted
  deriving DecidableEq, Repr

/-- The KIND check fails (R31). -/
def RxFrame.kindFails (f : RxFrame) : Bool :=
  !(f.isData || (f.isNotice && (f.word2 == 0x0001 || f.word2 == 0x0002)))

/-- The three checks in order; the first that fails decides (R31). -/
def RxFrame.checkHeader (f : RxFrame) : HeaderOutcome :=
  if f.kindFails then .rejectedKind
  else if f.sensorTag ≠ f.tag then .rejectedTag
  else if f.isData ∧ f.word2.toNat ≠ f.slopeCount then .rejectedLength
  else .accepted

/-- A rejected frame: counted, and its rest drained (R31). -/
def rejectFrame (l : LinkId) (f : ReceiverCounters → ReceiverCounters) (s : State) : State :=
  (setReception l .draining s).onReceiver l (Receiver.count f)

/-- A frame dropped at header acceptance: counted, and its rest received in DISCARDING (R32). -/
def dropFrame (l : LinkId) (f : RxFrame) (s : State) : State :=
  (setReception l (.discarding f) s).onReceiver l
    (Receiver.count (fun c => { c with dropped := Counter.increase c.dropped }))

/-- The entry of a frame whose header is accepted, holding no groups yet (R32). -/
def newEntry (f : RxFrame) : FifoEntry :=
  { sequence := f.sequence, attached := false, verified := false, groups := [], taken := 0 }

/-- The out-of-cycle policy at header acceptance: under DROP a frame that has not attached is removed and dropped; under
QUEUE it stays (R32). -/
def applyOutOfCycle (l : LinkId) (f : RxFrame) (s : State) : State :=
  if lastAttached (s.receivers.get l).fifo then s
  else
    match (s.slots.get l).policy.outOfCycle with
    | .queue => s
    | .drop => dropFrame l f (s.onReceiver l (fun r => r.withFewer r.fifo.dropLast))

/-- A DATA frame whose header is accepted (R32): the received sequence is recorded; in IDLE the frame is dropped;
otherwise its entry joins the FIFO and is offered, which in LEAD mode may open the cycle (R6), and the out-of-cycle
policy applies if it has not attached. -/
def acceptData (l : LinkId) (f : RxFrame) (s : State) : State :=
  let t := s.onReceiver l (fun r => { r with receivedSeq := f.sequence })
  if s.manager.state = .idle then dropFrame l f t
  else
    applyOutOfCycle l f (offerHead l (evalLead
      ((setReception l (.storing f) t).onReceiver l (fun r => { r with fifo := r.fifo ++ [newEntry f] }))))

/-- Word 2 of a frame has been taken: the header checks and what follows (R31, R32). -/
def takeHeader (l : LinkId) (f : RxFrame) (s : State) : State :=
  match f.checkHeader with
  | .rejectedKind => rejectFrame l (fun c => { c with rejectedKind := Counter.increase c.rejectedKind }) s
  | .rejectedTag => rejectFrame l (fun c => { c with rejectedTag := Counter.increase c.rejectedTag }) s
  | .rejectedLength => rejectFrame l (fun c => { c with rejectedLength := Counter.increase c.rejectedLength }) s
  | .accepted => if f.isData then acceptData l f s else setReception l (.discarding f) s

/-- A data word of the header (2.2, R28). -/
def RxFrame.headerWord (w : Word) (f : RxFrame) : RxFrame :=
  let g := { f with taken := f.taken + 1, crc := crcStep f.crc w }
  if f.taken = 0 then { g with word0 := w } else if f.taken = 1 then { g with sequence := w } else { g with word2 := w }

/-- A data word taken in HEADER (R29, R31). -/
def headerData (l : LinkId) (w : Word) (f : RxFrame) (s : State) : State :=
  if f.taken < 2 then setReception l (.header (f.headerWord w)) s else takeHeader l (f.headerWord w) s

/-! ## Payload (R33, R36) -/

/-- The newest entry changed by `f`. -/
def modifyLast (f : FifoEntry → FifoEntry) : List FifoEntry → List FifoEntry
  | [] => []
  | [e] => [f e]
  | e :: e' :: rest => e :: modifyLast f (e' :: rest)

/-- A completed group joins the newest entry (R33), and the flow symbol may go to HOLD (R34). -/
def Receiver.appendGroup (g : List Word) (r : Receiver) : Receiver :=
  let fifo := modifyLast (fun e => { e with groups := e.groups ++ [g] }) r.fifo
  { r with fifo := fifo, flow := Flow.afterAppend (fifoGroups fifo) r.flow }

/-- A group of the frame in STORING completes: appended, when an idle engine makes a choice (R33, R70), or the frame is
abandoned with cause OVERRUN when the FIFO is full (R36). -/
def completeGroup (l : LinkId) (f : RxFrame) (g : List Word) (s : State) : State :=
  if fifoGroups (s.receivers.get l).fifo < Config.fifoGroups then
    engineChoose ((setReception l (.storing { f with slopes := [] }) s).onReceiver l (Receiver.appendGroup g))
  else abandonInto l .overrun .draining s

/-- The next payload or CRC word of a frame (R28, R29): the CRC word does not enter the CRC. -/
def RxFrame.bodyWord (w : Word) (f : RxFrame) : RxFrame :=
  if f.taken + 1 = f.expected then { f with taken := f.taken + 1, crcWord := w }
  else { f with taken := f.taken + 1, crc := crcStep f.crc w }

/-- A data word taken in STORING: the next slope, the CRC word, or, where END is expected, a framing error (R29, R33). -/
def storingData (l : LinkId) (w : Word) (f : RxFrame) (s : State) : State :=
  if f.taken = f.expected then abandonInto l .framing .draining s
  else if f.taken + 1 = f.expected then setReception l (.storing (f.bodyWord w)) s
  else if (f.slopes ++ [w]).length < Config.groupSize then
    setReception l (.storing { f.bodyWord w with slopes := f.slopes ++ [w] }) s
  else completeGroup l (f.bodyWord w) (f.slopes ++ [w]) s

/-- A data word taken in DISCARDING: checked, not stored (R29). -/
def discardingData (l : LinkId) (w : Word) (f : RxFrame) (s : State) : State :=
  if f.taken = f.expected then abandonInto l .framing .draining s
  else setReception l (.discarding (f.bodyWord w)) s

/-! ## END (R35, R41, R42) -/

/-- The sequence check at the good END of a DATA frame (R41). -/
def Receiver.checkSequence (sequence : Word) (r : Receiver) : Receiver :=
  { r with
    lastGoodSeq := sequence
    primed := true
    counters := { r.counters with
      sequenceBreaks := Counter.increaseIf (r.primed && sequence != r.lastGoodSeq + 1) r.counters.sequenceBreaks } }

/-- A link that is LOCKED goes UP at a good frame (R27). -/
def Decoder.raise : Decoder → Decoder
  | .unlocked n => .unlocked n
  | .locked w _ => .locked w true

/-- The link goes UP if it was LOCKED, and LINK-CHANGE is posted (R27, R35). -/
def linkUp (l : LinkId) (s : State) : State :=
  if (s.receivers.get l).linkState = .locked then
    (s.onReceiver l (fun r => { r with decoder := r.decoder.raise })).post (.linkChange l .up)
  else s

/-- The good END of any frame: counted, and the link may go UP; reception returns to BETWEEN (R35 items 1 and 2). -/
def goodFrame (l : LinkId) (s : State) : State :=
  linkUp l ((setReception l .between s).onReceiver l
    (Receiver.count (fun c => { c with good := Counter.increase c.good })))

/-- The FIFO once the END of its newest frame is verified: that entry is marked, and it leaves if it is attached and
all its groups have been taken (R33, R35). -/
def verifyLast (fifo : List FifoEntry) : List FifoEntry :=
  match fifo.getLast? with
  | none => []
  | some e =>
    if e.attached && e.groups.isEmpty then fifo.dropLast else modifyLast (fun e => { e with verified := true }) fifo

/-- The good END of a DATA frame in STORING (R35): for an attached frame the verification is reported. -/
def verifyStored (l : LinkId) (f : RxFrame) (s : State) : State :=
  let fifo := (s.receivers.get l).fifo
  let t := (goodFrame l s).onReceiver l (fun r => { r.checkSequence f.sequence with fifo := verifyLast fifo })
  afterDeparture l (if lastAttached fifo then reportVerified l t else t)

/-- A good NOTICE frame is counted and handed to the slot controller; an unmute may meet the lead condition (R6, R42). -/
def takeNotice (l : LinkId) (f : RxFrame) (s : State) : State :=
  let t := s.onReceiver l (Receiver.count (fun c => { c with notices := Counter.increase c.notices }))
  if f.word2 = 0x0002 then muteSlot l t else evalLead (unmuteSlot l t)

/-- The good END of a frame in DISCARDING (R35). -/
def verifyDiscarded (l : LinkId) (f : RxFrame) (s : State) : State :=
  if f.isData then (goodFrame l s).onReceiver l (Receiver.checkSequence f.sequence) else takeNotice l f (goodFrame l s)

/-- END taken in STORING: verified at the expected word count with a matching CRC, else abandoned with cause CRC or
FRAMING (R29, R35, R37). -/
def storingEnd (l : LinkId) (f : RxFrame) (s : State) : State :=
  if f.taken ≠ f.expected then abandonInto l .framing .between s
  else if f.crc ≠ f.crcWord then abandonInto l .crc .between s
  else verifyStored l f s

/-- END taken in DISCARDING (R29, R35, R37). -/
def discardingEnd (l : LinkId) (f : RxFrame) (s : State) : State :=
  if f.taken ≠ f.expected then abandonInto l .framing .between s
  else if f.crc ≠ f.crcWord then abandonInto l .crc .between s
  else verifyDiscarded l f s

/-! ## A symbol while locked (R29) -/

/-- START. -/
def receiveStart (l : LinkId) (s : State) : State := abandonInto l .framing (beginFrame (s.slots.get l)) s

/-- A data symbol. -/
def receiveData (l : LinkId) (w : Word) (s : State) : State :=
  match (s.receivers.get l).reception with
  | .header f => headerData l w f s
  | .storing f => storingData l w f s
  | .discarding f => discardingData l w f s
  | .off => s
  | .between => s
  | .draining => s

/-- END. -/
def receiveEnd (l : LinkId) (s : State) : State :=
  match (s.receivers.get l).reception with
  | .header _ => abandonInto l .framing .between s
  | .storing f => storingEnd l f s
  | .discarding f => discardingEnd l f s
  | .draining => setReception l .between s
  | .off => s
  | .between => s

/-- An invalid symbol at which lock is not lost. -/
def receiveInvalid (l : LinkId) (s : State) : State :=
  match (s.receivers.get l).reception with
  | .header _ => abandonInto l .framing .draining s
  | .storing _ => abandonInto l .framing .draining s
  | .discarding _ => abandonInto l .framing .draining s
  | .off => s
  | .between => s
  | .draining => s

/-- A symbol acts on frame reception (the table of R29). -/
def receive (l : LinkId) (sym : LinkSymbol) (s : State) : State :=
  match sym with
  | .start => receiveStart l s
  | .data w => receiveData l w s
  | .fin => receiveEnd l s
  | .fill => s
  | .invalid => receiveInvalid l s

/-! ## Lock (R26, R40) -/

/-- Lock is declared: the window holds no invalid symbols, reception starts in BETWEEN, the sequence check is unprimed,
the link is LOCKED and LINK-CHANGE is posted (R26, R27, R29, R41). -/
def declareLock (l : LinkId) (s : State) : State :=
  (s.onReceiver l (fun r => { r with decoder := .locked [] false, reception := .between, primed := false })).post
    (.linkChange l .locked)

/-- Lock is lost: the frame in reception is abandoned with cause LOCK, reception is in no state, the decoder counts
valid symbols from 0, the link is DOWN and LINK-CHANGE is posted (R26, R27, R40). -/
def loseLock (l : LinkId) (s : State) : State :=
  ((abandonInto l .lock .off s).onReceiver l (fun r => { r with decoder := .unlocked 0 })).post (.linkChange l .down)

/-- The window after one more symbol: the latest 16, newest first (R26). -/
def slideWindow (invalid : Bool) (window : List Bool) : List Bool := (invalid :: window).take Config.lossWindow

/-- Lock is lost at this symbol: it is invalid and makes the fourth of the latest 16 (R26). -/
def losesLock (invalid : Bool) (window : List Bool) : Bool :=
  invalid && decide (Config.lossCount ≤ (slideWindow invalid window).count true)

/-- A symbol taken on link `l` (R25, R26). -/
def linkSymbol (l : LinkId) (sym : LinkSymbol) (s : State) : State :=
  match (s.receivers.get l).decoder with
  | .unlocked n =>
    if sym.isInvalid then s.onReceiver l (fun r => { r with decoder := .unlocked 0 })
    else if n + 1 < Config.lockSymbols then s.onReceiver l (fun r => { r with decoder := .unlocked (n + 1) })
    else declareLock l s
  | .locked window good =>
    if losesLock sym.isInvalid window then loseLock l s
    else
      receive l sym
        (s.onReceiver l (fun r => { r with decoder := .locked (slideWindow sym.isInvalid window) good }))

/-! ## STOP and soft reset -/

/-- STOP: the staging FIFO is emptied, each queued frame counted as dropped, a frame still in reception received on in
DISCARDING (R43). -/
def Receiver.flush (r : Receiver) : Receiver :=
  { r.withFewer [] with
    reception := r.reception.toDiscarding
    counters := { r.counters with dropped := r.fifo.foldl (fun c _ => Counter.increase c) r.counters.dropped } }

/-- Soft reset of a receiver (R46): the frame in reception given up, the FIFO emptied, GO sent, all counters 0; lock,
count, window, link state, sequences and primed flag kept. -/
def Receiver.softReset (r : Receiver) : Receiver :=
  { r with
    reception := match r.decoder with
      | .unlocked _ => .off
      | .locked _ _ => .between
    fifo := []
    flow := .go
    counters := ReceiverCounters.zero }

/-! ## GROUP_OPERATION_END (R74) -/

/-- The operation in flight ends (R74): unless void it is committed and may make the last-group report; the engine then
makes its next choice. With no operation in flight nothing ends (log 4). -/
def groupOperationEnd (s : State) : State :=
  match s.engine.inFlight with
  | none => s
  | some o =>
    if o.isVoid then engineChoose (s.onEngine (fun e => { e with inFlight := none }))
    else
      let t := s.onEngine (Engine.commit o)
      engineChoose (if t.engine.isMultiplied o.slot then reportLastGroup o.slot t else t)

/-! ## The commands -/

/-- LINK_START_SYMBOL (R25, R26, R29). -/
def execLinkStartSymbol (l : LinkId) (s : State) : Host.Outcome State Fault Refusal :=
  s.unlessReset (linkSymbol l .start)

/-- LINK_DATA_SYMBOL (R25, R26, R29). -/
def execLinkDataSymbol (l : LinkId) (w : Word) (s : State) : Host.Outcome State Fault Refusal :=
  s.unlessReset (linkSymbol l (.data w))

/-- LINK_END_SYMBOL (R25, R26, R29). -/
def execLinkEndSymbol (l : LinkId) (s : State) : Host.Outcome State Fault Refusal :=
  s.unlessReset (linkSymbol l .fin)

/-- LINK_FILL_SYMBOL (R25, R26). -/
def execLinkFillSymbol (l : LinkId) (s : State) : Host.Outcome State Fault Refusal :=
  s.unlessReset (linkSymbol l .fill)

/-- LINK_INVALID_SYMBOL (R26, R29). -/
def execLinkInvalidSymbol (l : LinkId) (s : State) : Host.Outcome State Fault Refusal :=
  s.unlessReset (linkSymbol l .invalid)

/-- GROUP_OPERATION_END (R74). -/
def execGroupOperationEnd (s : State) : Host.Outcome State Fault Refusal := s.unlessReset groupOperationEnd

end Sys2Proof.Machine
end

