-- ==== Sys2Proof/Machine/Mirror.lean ====
section
/-!
DEFINITION. The mirror link controller (Chapter 9): hand-over, the writeout board by board, outcomes, board states,
reports, settings; and the commands ADDRESS_SENT to GAP_END and SET_MIRROR.
-/
namespace Sys2Proof.Machine

/-- The mirror link controller changed by `f`. -/
def State.onMirror (s : State) (f : MirrorLink → MirrorLink) : State := { s with mirror := f s.mirror }

/-- The boards of a drive vector: its actuator count / 128 (R145). -/
def DriveVector.boards (v : DriveVector) : Nat := v.count / Config.boardActuators

/-- Board `b` of the writeout is addressed: ADDRESSING, no busy extensions, ADDRESS and the address word sent (R145). -/
def addressBoard (b : BoardId) (w : Writeout) (m : MirrorLink) : MirrorLink :=
  { m with
    activity := .writing { w with board := b, extensions := 0 } .addressing
    line := [.address, .word (addressWord b)] }

/-- The writeout of a drive vector starts with board 0, no outcome recorded (R145). -/
def startWriteout (v : DriveVector) (m : MirrorLink) : MirrorLink :=
  addressBoard 0 { vector := v, board := 0, extensions := 0, outcomes := Octet.fill .notWritten } m

/-- The report of a replaced pending vector: SKIPPED, every board NOT-WRITTEN (R153). -/
def skippedReport (v : DriveVector) : WriteoutReport :=
  { cycle := v.cycle, outcomes := Octet.fill .notWritten, skipped := true }

/-- The report of a writeout that ends: SENT, with the outcomes recorded (R153). -/
def sentReport (w : Writeout) : WriteoutReport := { cycle := w.vector.cycle, outcomes := w.outcomes, skipped := false }

/-- A drive vector is handed over: its writeout starts, or it becomes pending, or it replaces the pending vector, which
is reported SKIPPED and counted (R144). -/
def handOver (v : DriveVector) (m : MirrorLink) : MirrorLink :=
  match m.activity with
  | .idle => startWriteout v m
  | .writing _ _ =>
    match m.pendingVector with
    | none => { m with pendingVector := some v }
    | some old =>
      { m with
        pendingVector := some v
        latest := some (skippedReport old)
        counters := { m.counters with skipped := Counter.increase m.counters.skipped } }

/-- The writeout ends: report SENT, counted; the pending vector's writeout starts, or the link is IDLE (R144, R150). -/
def endWriteout (w : Writeout) (m : MirrorLink) : MirrorLink :=
  let t := { m with
    latest := some (sentReport w)
    counters := { m.counters with sent := Counter.increase m.counters.sent } }
  match m.pendingVector with
  | some v => startWriteout v { t with pendingVector := none }
  | none => { t with activity := .idle, line := [] }

/-- The gap of a board ends: the next board is addressed, or after the last board the writeout ends (R150). -/
def endGap (w : Writeout) (m : MirrorLink) : MirrorLink :=
  if w.board.val + 1 < w.vector.boards then addressBoard (w.board + 1) w m else endWriteout w m

/-- The controller enters GAP; a gap of 0 ends at once (R150). -/
def enterGap (w : Writeout) (m : MirrorLink) : MirrorLink :=
  if m.settings.gap = 0 then endGap w m
  else { m with activity := .writing w (.gap (m.settings.gap.setWidth 16)), line := [] }

/-- The outcome counter of a kind increased (R154). -/
def BoardCounters.tally (o : BoardOutcome) (c : BoardCounters) : BoardCounters :=
  match o with
  | .acked => { c with acked := Counter.increase c.acked }
  | .naked => { c with naked := Counter.increase c.naked }
  | .noAck => { c with noAck := Counter.increase c.noAck }
  | .noReady => { c with noReady := Counter.increase c.noReady }
  | .notWritten => c

/-- The consecutive fault count increased by 1, stopping at 255 (R142, R151). -/
def moreFaults (n : Nat) : Nat := if n < Config.maxByteCount then n + 1 else n

/-- A board after a failed block (R151). -/
def Board.fail (limit : Nat) (b : Board) : Board :=
  { state := if b.state ≠ .faulted ∧ limit ≤ moreFaults b.faults then .faulted else b.state
    faults := moreFaults b.faults }

/-- A board after an outcome (R151). -/
def Board.after (limit : Nat) (o : BoardOutcome) (b : Board) : Board :=
  match o with
  | .acked => { state := .ok, faults := 0 }
  | .naked => b.fail limit
  | .noAck => b.fail limit
  | .noReady => b.fail limit
  | .notWritten => b

/-- BOARD-CHANGE is posted when a board becomes FAULTED or leaves FAULTED (R151). -/
def boardChanges (before after : Board) : Bool := (before.state == .faulted) != (after.state == .faulted)

/-- The outcome recorded, counted, and taken by the board (R151, R154). -/
def recordOutcome (w : Writeout) (o : BoardOutcome) (m : MirrorLink) : MirrorLink :=
  { m with
    boards := m.boards.set w.board ((m.boards.get w.board).after m.settings.faultLimit o)
    counters := { m.counters with
      boards := m.counters.boards.set w.board ((m.counters.boards.get w.board).tally o) } }

/-- The events and the trip request of an outcome (R151, R152): BOARD-CHANGE on a change, and with the loop CLOSED a
trip when the board became FAULTED. -/
def reportBoard (i : BoardId) (before after : Board) (s : State) : State :=
  if boardChanges before after then
    let t := s.post (.boardChange i after.state after.faults)
    if after.state = .faulted ∧ s.loop.loop = .closed then requestTrip (.board i) t else t
  else s

/-- A board outcome is taken, and the controller enters GAP (R147, R149, R151). -/
def takeOutcome (w : Writeout) (o : BoardOutcome) (s : State) : State :=
  let before := s.mirror.boards.get w.board
  let t := s.onMirror (recordOutcome w o)
  (reportBoard w.board before (t.mirror.boards.get w.board) t).onMirror
    (enterGap { w with outcomes := w.outcomes.set w.board o })

/-- Held settings come into force (R143). -/
def MirrorLink.takeHeld (m : MirrorLink) : MirrorLink :=
  match m.held with
  | none => m
  | some x => { m with settings := x, held := none }

/-- SET MIRROR at port `p` (R143). -/
def setMirror (p : PortId) (x : MirrorParams) (s : State) : State :=
  match checkMirror x with
  | none => s.reject p codeSetMirror .badParameter
  | some t =>
    if s.cycleIsOpen then
      (s.onMirror (fun m => { m with held := some t })).complete p codeSetMirror (t.bytes ++ [1])
    else (s.onMirror (fun m => { m with settings := t, held := none })).complete p codeSetMirror (t.bytes ++ [0])

/-- Soft reset: the writeout abandoned without a report, the pending vector discarded, the phase IDLE, nothing sent,
held settings in force (R157). -/
def MirrorLink.softReset (m : MirrorLink) : MirrorLink :=
  { m.takeHeld with activity := .idle, pendingVector := none, line := [] }

/-! ## The commands -/

/-- The address word has been sent: WAIT-READY with the ready timeout in force (R145). -/
def addressSent (m : MirrorLink) : MirrorLink :=
  match m.activity with
  | .writing w .addressing => { m with activity := .writing w (.waitReady m.settings.readyTimeout), line := [] }
  | _ => m

/-- READY in WAIT-READY: SENDING, with the block on the link; ignored in any other phase (R146, R148). -/
def boardReady (m : MirrorLink) : MirrorLink :=
  match m.activity with
  | .writing w (.waitReady _) => { m with activity := .writing w .sending, line := blockSymbols w.vector w.board }
  | _ => m

/-- BUSY in WAIT-READY restarts the ready timer while fewer than 7 extensions have been used; otherwise ignored
(R147). -/
def boardBusy (m : MirrorLink) : MirrorLink :=
  match m.activity with
  | .writing w (.waitReady _) =>
    if w.extensions < Config.busyExtensions then
      { m with activity := .writing { w with extensions := w.extensions + 1 } (.waitReady m.settings.readyTimeout) }
    else m
  | _ => m

/-- END has been sent: WAIT-ACK with the ack timeout in force (R148). -/
def blockSent (m : MirrorLink) : MirrorLink :=
  match m.activity with
  | .writing w .sending => { m with activity := .writing w (.waitAck m.settings.ackTimeout), line := [] }
  | _ => m

/-- The ready timer has expired in WAIT-READY: NO-READY (R147). -/
def readyTimeout (s : State) : State :=
  match s.mirror.activity with
  | .writing w (.waitReady t) => if t = 0 then takeOutcome w .noReady s else s
  | _ => s

/-- ACK or NAK taken in WAIT-ACK gives the outcome; ignored in any other phase (R149). -/
def boardAnswer (o : BoardOutcome) (s : State) : State :=
  match s.mirror.activity with
  | .writing w (.waitAck _) => takeOutcome w o s
  | _ => s

/-- The ack timer has expired in WAIT-ACK: NO-ACK (R149). -/
def ackTimeout (s : State) : State :=
  match s.mirror.activity with
  | .writing w (.waitAck t) => if t = 0 then takeOutcome w .noAck s else s
  | _ => s

/-- The gap has run (R150). -/
def gapEnd (m : MirrorLink) : MirrorLink :=
  match m.activity with
  | .writing w (.gap t) => if t = 0 then endGap w m else m
  | _ => m

/-- ADDRESS_SENT (R145). -/
def execAddressSent (s : State) : Host.Outcome State Fault Refusal := s.unlessReset (fun s => s.onMirror addressSent)

/-- BOARD_READY (R146). -/
def execBoardReady (s : State) : Host.Outcome State Fault Refusal := s.unlessReset (fun s => s.onMirror boardReady)

/-- BOARD_BUSY (R147). -/
def execBoardBusy (s : State) : Host.Outcome State Fault Refusal := s.unlessReset (fun s => s.onMirror boardBusy)

/-- READY_TIMEOUT (R147). -/
def execReadyTimeout (s : State) : Host.Outcome State Fault Refusal := s.unlessReset readyTimeout

/-- BLOCK_SENT (R148). -/
def execBlockSent (s : State) : Host.Outcome State Fault Refusal := s.unlessReset (fun s => s.onMirror blockSent)

/-- BOARD_ACK (R149, R151). -/
def execBoardAck (s : State) : Host.Outcome State Fault Refusal := s.unlessReset (boardAnswer .acked)

/-- BOARD_NAK (R149, R151). -/
def execBoardNak (s : State) : Host.Outcome State Fault Refusal := s.unlessReset (boardAnswer .naked)

/-- ACK_TIMEOUT (R149). -/
def execAckTimeout (s : State) : Host.Outcome State Fault Refusal := s.unlessReset ackTimeout

/-- GAP_END (R150). -/
def execGapEnd (s : State) : Host.Outcome State Fault Refusal := s.unlessReset (fun s => s.onMirror gapEnd)

/-- SET_MIRROR taken at port `p` (R143). -/
def execSetMirror (p : PortId) (x : MirrorParams) (s : State) : Host.Outcome State Fault Refusal :=
  s.unlessReset (State.arrive p (setMirror p x))

end Sys2Proof.Machine
end

