-- ==== Sys2Proof/Machine/Outputs.lean ====
section
/-!
DEFINITION. Telemetry and offload (Chapter 12): capture, the telemetry link, the offload window and mailbox; and the
commands TELEMETRY_GO, TELEMETRY_HOLD, TELEMETRY_SYMBOL_SENT, SET_CAPTURE, SET_OFFLOAD, READ_OFFLOAD.
-/
namespace Sys2Proof.Machine

/-- The capture unit changed by `f`. -/
def State.onCapture (s : State) (f : CaptureUnit → CaptureUnit) : State := { s with capture := f s.capture }

/-- The offload unit changed by `f`. -/
def State.onOffload (s : State) (f : OffloadUnit → OffloadUnit) : State := { s with offload := f s.offload }

/-! ## Capture (12.1, 12.2) -/

/-- The period L of the capture position (R188). -/
def CapturePattern.length : CapturePattern → Nat
  | .off => 1
  | .every n => n
  | .burst _ t => t
  | .mask p _ => p

/-- Whether a close at capture position `p` is captured (R189). -/
def CapturePattern.captures (c : CapturePattern) (p : Nat) : Bool :=
  match c with
  | .off => false
  | .every _ => p == 0
  | .burst m _ => decide (p < m)
  | .mask _ bits => bits.getLsbD p

/-- The position after a close: L − 1 becomes 0, any other p becomes p + 1 (R189). -/
def CapturePattern.next (c : CapturePattern) (p : Nat) : Nat := if p + 1 < c.length then p + 1 else 0

/-- The drive section: D of each actuator below the count (R190). -/
def driveSection (d : Cells 16) (count : Nat) : List Word := (List.range count).map d.at

/-- The residual section: the residual capture buffer up to the total slope count (R190). -/
def residualSection (residuals : Cells 16) (total : Nat) : List Word := (List.range total).map residuals.at

/-- An assembled record is appended if it fits the telemetry FIFO whole, or is dropped and counted (R191). -/
def CaptureUnit.offer (record : List Word) (c : CaptureUnit) : CaptureUnit :=
  if c.level + record.length ≤ Config.telemetryWords then { c with fifo := c.fifo ++ [record] }
  else { c with drops := Counter.increase c.drops }

/-- The record of the closed cycle, with the sections selected (R190). -/
def assembleRecord (r : CycleRecord) (s : State) : List Word :=
  telemetryRecord r
    (if s.capture.settings.drive then some (driveSection s.command.d s.command.actuatorCount) else none)
    (if s.capture.settings.residual then some (residualSection s.engine.residuals (totalSlopes s.slots)) else none)

/-- The capture unit acts on a closed cycle: record or not, and the position advances (R189). -/
def captureClose (r : CycleRecord) (s : State) : State :=
  let record := assembleRecord r s
  s.onCapture (fun c =>
    let t := if c.settings.pattern.captures c.position then c.offer record else c
    { t with position := c.settings.pattern.next c.position })

/-- Settings come into force: the capture position is set to 0, even if they are the same (R188). -/
def CaptureUnit.withSettings (x : CaptureSettings) (c : CaptureUnit) : CaptureUnit :=
  { c with settings := x, held := none, position := 0 }

/-- Held settings come into force (R188). -/
def CaptureUnit.takeHeld (c : CaptureUnit) : CaptureUnit :=
  match c.held with
  | none => c
  | some x => c.withSettings x

/-- SET CAPTURE at port `p` (R188). -/
def setCapture (p : PortId) (x : CaptureParams) (s : State) : State :=
  match checkCapture x with
  | none => s.reject p codeSetCapture .badParameter
  | some t =>
    if s.cycleIsOpen then
      (s.onCapture (fun c => { c with held := some t })).complete p codeSetCapture (t.bytes ++ [1])
    else (s.onCapture (CaptureUnit.withSettings t)).complete p codeSetCapture (t.bytes ++ [0])

/-- Soft reset: the FIFO emptied, the sender IDLE, held settings in force, the position 0; settings, flow state, drop
counter and the symbol in progress kept (R193). -/
def CaptureUnit.softReset (c : CaptureUnit) : CaptureUnit :=
  { c.takeHeld with fifo := [], sender := .idle, position := 0 }

/-! ## The telemetry link (12.3) -/

/-- The FIFO after a word of its oldest record has been sent; a record with no words left is gone (R192). -/
def sendWord : List (List Word) → List (List Word)
  | [] => []
  | r :: rest => if r.tail.isEmpty then rest else r.tail :: rest

/-- The oldest record has no word left after the one now sent. -/
def lastWord (fifo : List (List Word)) : Bool :=
  match fifo with
  | [] => true
  | r :: _ => r.tail.isEmpty

/-- The symbol in progress has ended: a record word leaves the FIFO and enters the CRC (R192). -/
def CaptureUnit.finishSymbol (c : CaptureUnit) : CaptureUnit :=
  match c.sender, c.symbol with
  | .sending crc .word, .word w =>
    { c with fifo := sendWord c.fifo, sender := .sending (crcStep crc w) (if lastWord c.fifo then .crc else .word) }
  | _, _ => c

/-- The next word of the record being sent. -/
def nextWord (fifo : List (List Word)) : Word :=
  match fifo with
  | (w :: _) :: _ => w
  | _ => 0

/-- The sender chooses the next symbol (R192). -/
def CaptureUnit.chooseSymbol (c : CaptureUnit) : CaptureUnit :=
  match c.flow with
  | .hold => { c with symbol := .fill }
  | .go =>
    match c.sender with
    | .idle => if c.fifo.isEmpty then { c with symbol := .fill }
               else { c with symbol := .start, sender := .sending crcInit .word }
    | .sending _ .word => { c with symbol := .word (nextWord c.fifo) }
    | .sending crc .crc => { c with symbol := .crc crc, sender := .sending crc .fin }
    | .sending _ .fin => { c with symbol := .fin, sender := .idle }

/-! ## Offload (12.5) -/

/-- The projection y of the drive vector onto mode `m` (R195). -/
def projection (vec d : Cells 16) (count m : Nat) : Int :=
  ((List.range count).map (fun a =>
    (storeWord .offloadvec vec (m * Config.matrixStride + a)).toInt * (d.at a).toInt)).sum

/-- Mode `m` is enabled. -/
def OffloadSettings.enabled (x : OffloadSettings) (m : LinkId) : Bool := x.mask.getLsbD m.val

/-- The accumulators with the projections of the enabled modes added (R195). -/
def addProjections (x : OffloadSettings) (vec d : Cells 16) (count : Nat) (acc : Quad (BitVec 64)) : Quad (BitVec 64) :=
  Quad.tabulate (fun m =>
    if x.enabled m then acc.get m + BitVec.ofInt 64 (projection vec d count m.val) else acc.get m)

/-- The value of an enabled mode: the mean over the window in SU, rounded to nearest with ties up, saturated (R196). -/
def windowMean (sum : BitVec 64) (window : Nat) : Int :=
  saturate (-2147483648) 2147483647 ((sum.toInt + window * 16384) / (window * 32768))

/-- The record of a completed window (R196). -/
def offloadRecord (x : OffloadSettings) (cycle : Counter) (acc : Quad (BitVec 64)) : OffloadRecord :=
  { cycle := cycle, window := x.window, mask := x.mask,
    values := Quad.tabulate (fun m => if x.enabled m then BitVec.ofInt 32 (windowMean (acc.get m) x.window) else 0) }

/-- The window is complete: the record is latched, a fresh record it replaces is counted, window and accumulators are
cleared (R196). -/
def OffloadUnit.latchWindow (cycle : Counter) (acc : Quad (BitVec 64)) (o : OffloadUnit) : OffloadUnit :=
  { o with
    overwrites := Counter.increaseIf o.fresh o.overwrites
    mailbox := some (offloadRecord o.settings cycle acc)
    fresh := true
    count := 0
    accumulators := Quad.fill 0 }

/-- The offload unit acts on the drive vector of a close (R195, R196); with W = 0 it does nothing with it. -/
def offloadClose (cycle : Counter) (s : State) : State :=
  let o := s.offload
  if o.settings.window = 0 then s
  else
    let acc := addProjections o.settings s.stores.active.offloadvec s.command.d s.command.actuatorCount o.accumulators
    if o.settings.window ≤ o.count + 1 then
      (s.onOffload (OffloadUnit.latchWindow cycle acc)).post (.offloadReady cycle o.settings.window)
    else s.onOffload (fun x => { x with accumulators := acc, count := x.count + 1 })

/-- The window count and the accumulators cleared (R194, R198). -/
def OffloadUnit.clearWindow (o : OffloadUnit) : OffloadUnit := { o with count := 0, accumulators := Quad.fill 0 }

/-- Settings come into force: the window is cleared, even if they are the same (R194). -/
def OffloadUnit.withSettings (x : OffloadSettings) (o : OffloadUnit) : OffloadUnit :=
  { o.clearWindow with settings := x, held := none }

/-- Held settings come into force (R194). -/
def OffloadUnit.takeHeld (o : OffloadUnit) : OffloadUnit :=
  match o.held with
  | none => o
  | some x => o.withSettings x

/-- SET OFFLOAD at port `p` (R194). -/
def setOffload (p : PortId) (x : OffloadParams) (s : State) : State :=
  match checkOffload x with
  | none => s.reject p codeSetOffload .badParameter
  | some t =>
    if s.cycleIsOpen then
      (s.onOffload (fun o => { o with held := some t })).complete p codeSetOffload (t.bytes ++ [1])
    else (s.onOffload (OffloadUnit.withSettings t)).complete p codeSetOffload (t.bytes ++ [0])

/-- READ OFFLOAD at port `p`: the mailbox record with the fresh flag, which is then cleared; or empty (R197). -/
def readOffload (p : PortId) (s : State) : State :=
  (s.onOffload (fun o => { o with fresh := if o.mailbox.isSome then false else o.fresh })).complete p codeReadOffload
    (offloadData s.offload.mailbox s.offload.fresh)

/-- Soft reset: held settings in force, window cleared, mailbox emptied, fresh flag cleared (R198). -/
def OffloadUnit.softReset (o : OffloadUnit) : OffloadUnit :=
  { o.takeHeld.clearWindow with mailbox := none, fresh := false }

/-! ## The commands -/

/-- TELEMETRY_GO (R192). -/
def execTelemetryGo (s : State) : Host.Outcome State Fault Refusal :=
  s.unlessReset (fun s => s.onCapture (fun c => { c with flow := .go }))

/-- TELEMETRY_HOLD (R192). -/
def execTelemetryHold (s : State) : Host.Outcome State Fault Refusal :=
  s.unlessReset (fun s => s.onCapture (fun c => { c with flow := .hold }))

/-- TELEMETRY_SYMBOL_SENT: the symbol in progress ends and the next is chosen (R192). -/
def execTelemetrySymbolSent (s : State) : Host.Outcome State Fault Refusal :=
  s.unlessReset (fun s => s.onCapture (fun c => c.finishSymbol.chooseSymbol))

/-- SET_CAPTURE taken at port `p` (R188). -/
def execSetCapture (p : PortId) (x : CaptureParams) (s : State) : Host.Outcome State Fault Refusal :=
  s.unlessReset (State.arrive p (setCapture p x))

/-- SET_OFFLOAD taken at port `p` (R194). -/
def execSetOffload (p : PortId) (x : OffloadParams) (s : State) : Host.Outcome State Fault Refusal :=
  s.unlessReset (State.arrive p (setOffload p x))

/-- READ_OFFLOAD taken at port `p` (R197). -/
def execReadOffload (p : PortId) (s : State) : Host.Outcome State Fault Refusal :=
  s.unlessReset (State.arrive p (readOffload p))

end Sys2Proof.Machine
end

