-- ==== Sys2Proof/Machine/StoreOps.lean ====
section
/-!
DEFINITION. The store controller (Chapter 10): LOAD and its load engine, READ BACK, APPLY and the exchange; and the
commands LOAD, LOAD_WORD_WRITE, READ_BACK, APPLY.
-/
namespace Sys2Proof.Machine

/-- The store controller changed by `f`. -/
def State.onStores (s : State) (f : StoreController → StoreController) : State := { s with stores := f s.stores }

/-- The load engine is LOADING store `id` (R162). -/
def StoreController.isLoading (id : StoreId) (c : StoreController) : Bool :=
  match c.load with
  | .idle => false
  | .loading j => j.store == id

/-- The load engine is LOADING (R158). -/
def StoreController.loadBusy (c : StoreController) : Bool :=
  match c.load with
  | .idle => false
  | .loading _ => true

/-- The pending APPLY names store `id` (R161). -/
def StoreController.isPending (id : StoreId) (c : StoreController) : Bool :=
  match c.pendingApply with
  | none => false
  | some a => selects a.selection id

/-- The count and range checks of LOAD and READ BACK, on the exact sum (R161, R163). -/
def rangeFits (id : StoreId) (first : BitVec 32) (count : Word) : Bool :=
  decide (1 ≤ count.toNat) && decide (count.toNat ≤ Config.transferWords) &&
    decide (first.toNat + count.toNat ≤ id.size)

/-- LOAD at port `p`: the checks in order, then the load engine enters LOADING (R161). -/
def load (p : PortId) (x : LoadParams) (s : State) : State :=
  match StoreId.ofNumber x.store.toNat with
  | none => s.reject p codeLoad .badParameter
  | some id =>
    if !rangeFits id x.first x.count then s.reject p codeLoad .badParameter
    else if s.stores.loadBusy then s.reject p codeLoad .busy
    else if s.stores.isPending id then s.reject p codeLoad .pending
    else
      (s.onStores (fun c => { c with
        load := .loading { store := id, first := x.first, count := x.count.toNat, written := 0, port := p,
                           words := x.words } })).execute p .load

/-- The shadow copy with word `i` of store `id` written (R162). -/
def writeShadow (id : StoreId) (i : Nat) (w : Word) (c : Stores) : Stores :=
  c.set id (Cells.write id.powerOn (c.get id) i w)

/-- The load engine writes the next word; with the last the LOAD completes (R162). -/
def loadWordWrite (s : State) : State :=
  match s.stores.load with
  | .idle => s
  | .loading j =>
    let t := s.onStores (fun c => { c with
      shadow := writeShadow j.store (j.first.toNat + j.written) (j.words.getD j.written 0) c.shadow
      load := if j.written + 1 < j.count then .loading { j with written := j.written + 1 } else .idle })
    if j.written + 1 < j.count then t
    else t.complete j.port codeLoad ([BitVec.ofNat 8 j.store.number] ++ bytes32 j.first ++ count16 j.count)

/-- The words of a copy from an index upward (R163). -/
def readWords (id : StoreId) (c : Stores) (first count : Nat) : List Word :=
  (List.range count).map (fun i => storeWord id (c.get id) (first + i))

/-- READ BACK at port `p` (R163). -/
def readBack (p : PortId) (x : ReadBackParams) (s : State) : State :=
  match StoreId.ofNumber x.store.toNat, readCopy x.copy with
  | some id, some isActive =>
    if !rangeFits id x.first x.count then s.reject p codeReadBack .badParameter
    else if !isActive && s.stores.isLoading id then s.reject p codeReadBack .busy
    else
      s.complete p codeReadBack
        (bytes16 s.stores.generation ++ [x.store, x.copy] ++ bytes32 x.first ++ bytes16 x.count ++
          ((readWords id (if isActive then s.stores.active else s.stores.shadow) x.first.toNat x.count.toNat).map
            bytes16).flatten)
  | _, _ => s.reject p codeReadBack .badParameter

/-- The stores of `y` named by a selection, the others of `x`. -/
def Stores.pick (selection : BitVec 9) (x y : Stores) : Stores :=
  let one (id : StoreId) : Cells 16 := if selects selection id then y.get id else x.get id
  { matrix := one .matrix, refslopes := one .refslopes, offsets := one .offsets, limits := one .limits,
    gains := one .gains, groupmap := one .groupmap, neighbours := one .neighbours, probes := one .probes,
    offloadvec := one .offloadvec }

/-- The exchange: active and shadow copies of every store named are swapped, and the generation increases by 1, from
65,535 to 0 (R166). -/
def exchange (selection : BitVec 9) (c : StoreController) : StoreController :=
  { c with
    active := Stores.pick selection c.active c.shadow
    shadow := Stores.pick selection c.shadow c.active
    generation := c.generation + 1 }

/-- The exchange of an APPLY is made and its command completes with the set and the new generation (R166). -/
def takeApply (selection : BitVec 9) (p : PortId) (s : State) : State :=
  (s.onStores (exchange selection)).complete p codeApply
    (bytes16 (selection.setWidth 16) ++ bytes16 (s.stores.generation + 1))

/-- The load engine is LOADING a store that a selection names (R164). -/
def StoreController.loadsSelected (selection : BitVec 9) (c : StoreController) : Bool :=
  match c.load with
  | .idle => false
  | .loading j => selects selection j.store

/-- APPLY at port `p`: the checks in order, then the exchange at once, or at the boundary while a cycle is open (R164,
R165). -/
def apply (p : PortId) (selection : Word) (s : State) : State :=
  if selection = 0 ∨ selection.extractLsb' 9 7 ≠ 0 then s.reject p codeApply .badParameter
  else if s.stores.pendingApply.isSome then s.reject p codeApply .busy
  else if s.stores.loadsSelected (selection.extractLsb' 0 9) then s.reject p codeApply .busy
  else if s.cycleIsOpen then
    (s.onStores (fun c => { c with
      pendingApply := some { selection := selection.extractLsb' 0 9, port := p } })).execute p .apply
  else takeApply (selection.extractLsb' 0 9) p s

/-- A pending APPLY is taken at the boundary (R165). -/
def takePendingApply (s : State) : State :=
  match s.stores.pendingApply with
  | none => s
  | some a => takeApply a.selection a.port (s.onStores (fun c => { c with pendingApply := none }))

/-- Soft reset: the LOAD abandoned, the pending APPLY withdrawn, copies and generation kept (R169). -/
def StoreController.softReset (c : StoreController) : StoreController := { c with load := .idle, pendingApply := none }

/-- LOAD taken at port `p` (R161). -/
def execLoad (p : PortId) (x : LoadParams) (s : State) : Host.Outcome State Fault Refusal :=
  s.unlessReset (State.arrive p (load p x))

/-- LOAD_WORD_WRITE (R162). -/
def execLoadWordWrite (s : State) : Host.Outcome State Fault Refusal := s.unlessReset loadWordWrite

/-- READ_BACK taken at port `p` (R163). -/
def execReadBack (p : PortId) (x : ReadBackParams) (s : State) : Host.Outcome State Fault Refusal :=
  s.unlessReset (State.arrive p (readBack p x))

/-- APPLY taken at port `p` (R164, R165). -/
def execApply (p : PortId) (selection : Word) (s : State) : Host.Outcome State Fault Refusal :=
  s.unlessReset (State.arrive p (apply p selection))

end Sys2Proof.Machine
end

