-- ==== Sys2Proof/Machine/Loop.lean ====
section
/-!
DEFINITION. The loop state controller's requests (7.2 to 7.4): the checks, taking a request at once or at a boundary,
supersession, START and STOP; and the commands LOOP_START, LOOP_CLOSE, LOOP_FREEZE, LOOP_OPEN, LOOP_STOP.
-/
namespace Sys2Proof.Machine

/-- The command unit changed by `f`. -/
def State.onCommand (s : State) (f : CommandUnit → CommandUnit) : State := { s with command := f s.command }

/-- The probe generator changed by `f`. -/
def State.onProbe (s : State) (f : ProbeGenerator → ProbeGenerator) : State := { s with probe := f s.probe }

/-- Every receiver's FIFO is emptied as STOP takes effect (R43, R122). -/
def flushReceivers (s : State) : State := { s with receivers := s.receivers.map Receiver.flush }

/-- The loop state after a request is taken (R115). -/
def RequestTarget.loopState : RequestTarget → LoopState
  | .close => .closed
  | .freeze => .frozen
  | .opn => .opened
  | .stop => .idle

/-- The loop states from which a target is valid (R115). -/
def RequestTarget.validFrom : RequestTarget → LoopState → Bool
  | .close, x => x == .opened || x == .frozen
  | .freeze, x => x == .closed
  | .opn, x => x == .closed || x == .frozen
  | .stop, x => x != .idle

/-- The integrator after a request is taken: OPEN sets every entry of U to 0, the others keep it (R101, R121, R122). -/
def RequestTarget.integrator (t : RequestTarget) (u : Cells 40) : Cells 40 :=
  match t with
  | .opn => []
  | .close => u
  | .freeze => u
  | .stop => u

/-- The result data of a LOOP that completes: the loop states before and after, and the cycle number (R119). -/
def loopData (before after : LoopState) (cycle : Counter) : List Byte := [before.code, after.code] ++ bytes32 cycle

/-- The request of port `p` is taken (R117): the loop state becomes the target's, U is cleared by OPEN, LOOP-CHANGE is
posted and the command completes. What STOP does to the manager and the receivers follows where it is taken. -/
def takeRequest (t : RequestTarget) (p : PortId) (s : State) : State :=
  (((s.onLoop (fun c => { c with loop := t.loopState, request := none })).onCommand
      (fun c => { c with u := t.integrator c.u })).post (.loopChange s.loop.loop t.loopState (.request p))).complete
    p codeLoop (loopData s.loop.loop t.loopState s.manager.cycle)

/-- The manager enters IDLE and the receivers empty their FIFOs, once STOP has taken effect (R43, R122). -/
def stopCycles (s : State) : State := flushReceivers (managerToIdle s)

/-- A request is taken in ARMED (R117, R122). -/
def takeAtOnce (t : RequestTarget) (p : PortId) (s : State) : State :=
  let u := takeRequest t p s
  if t = .stop then stopCycles u else u

/-- A request becomes the pending request, an earlier one ending SUPERSEDED (R117, R118). -/
def holdRequest (t : RequestTarget) (p : PortId) (s : State) : State :=
  ((withdrawRequest .superseded (some p) s).onLoop
    (fun c => { c with request := some { target := t, port := p } })).execute p .loop

/-- The arrival of a CLOSE, FREEZE, OPEN or STOP request of port `p` (R115, R117). -/
def loopRequest (t : RequestTarget) (p : PortId) (s : State) : State :=
  if s.loop.trip.isSome then s.reject p codeLoop .tripPending
  else if !t.validFrom s.loop.loop then s.reject p codeLoop .wrongState
  else if s.cycleIsOpen then holdRequest t p s
  else takeAtOnce t p s

/-- START can be taken: at least one slot is enabled, and in LEAD mode the lead slot is (R116). -/
def startable (s : State) : Bool :=
  links.any (fun l => (s.slots.get l).enabled) &&
    (s.manager.settings.mode != .lead || (s.slots.get s.manager.settings.leadSlot).enabled)

/-- The cycle manager's records and count as START leaves them, before it enters ARMED (R2). -/
def Manager.clear (m : Manager) : Manager :=
  { m with cycle := 0, latch := none, openRecord := none, lastRecord := none }

/-- The effects of START on the blocks that hold no event to post (R120): contributions, U, positions, window. -/
def startBlocks (s : State) : State :=
  { s with
    engine := s.engine.start
    command := { s.command with u := [] }
    probe := { s.probe with position := 0 }
    capture := { s.capture with position := 0 }
    offload := s.offload.clearWindow }

/-- START is taken (R120): the loop is OPEN, LOOP-CHANGE is posted before the slots' SLOT-CHANGE events (R127), the
blocks act, the command completes with cycle number 0, the period timer starts in TIMER mode, and the manager enters
ARMED (R2, R10, R12). -/
def takeStart (p : PortId) (s : State) : State :=
  let cleared := (s.onLoop (fun c => { c with loop := .opened, request := none })).onManager Manager.clear
  let posted := cleared.post (.loopChange s.loop.loop .opened (.request p))
  let done := (startBlocks (forLinks startSlot links posted)).complete p codeLoop
    (loopData s.loop.loop .opened 0)
  enterArmed (startPeriod (done.onManager (fun m => { m with state := .armed })))

/-- The arrival of a START request of port `p` (R115, R116). -/
def loopStart (p : PortId) (s : State) : State :=
  if s.loop.trip.isSome then s.reject p codeLoop .tripPending
  else if s.loop.loop ≠ .idle then s.reject p codeLoop .wrongState
  else if !startable s then s.reject p codeLoop .notConfigured
  else takeStart p s

/-- LOOP_START taken at port `p` (R115, R116, R120). -/
def execLoopStart (p : PortId) (s : State) : Host.Outcome State Fault Refusal :=
  s.unlessReset (State.arrive p (loopStart p))

/-- LOOP_CLOSE taken at port `p` (R115, R121). -/
def execLoopClose (p : PortId) (s : State) : Host.Outcome State Fault Refusal :=
  s.unlessReset (State.arrive p (loopRequest .close p))

/-- LOOP_FREEZE taken at port `p` (R115, R121). -/
def execLoopFreeze (p : PortId) (s : State) : Host.Outcome State Fault Refusal :=
  s.unlessReset (State.arrive p (loopRequest .freeze p))

/-- LOOP_OPEN taken at port `p` (R115, R121). -/
def execLoopOpen (p : PortId) (s : State) : Host.Outcome State Fault Refusal :=
  s.unlessReset (State.arrive p (loopRequest .opn p))

/-- LOOP_STOP taken at port `p` (R115, R122). -/
def execLoopStop (p : PortId) (s : State) : Host.Outcome State Fault Refusal :=
  s.unlessReset (State.arrive p (loopRequest .stop p))

end Sys2Proof.Machine
end

