-- ==== Sys2Proof/Machine/Boundary.lean ====
section
/-!
DEFINITION. The end of the close computation and the cycle boundary (R86, R20): CLOSE_COMPUTATION_END.
-/
namespace Sys2Proof.Machine

/-- U and D take the results of the close computation, and the unit is READY (R86). -/
def CommandUnit.commit (r : CloseResult) (c : CommandUnit) : CommandUnit := { c with u := r.u, d := r.d, working := none }

/-- The drive vector of a close as it is handed to the mirror link (R142, R144). -/
def closedVector (r : CloseResult) (w : WorkingSet) (cycle : Counter) : DriveVector :=
  { values := r.d, cycle := cycle, count := w.count }

/-- The open record becomes the last cycle record (R20, R21). -/
def completeRecord (r : CycleRecord) (s : State) : State :=
  s.onManager (fun m => { m with lastRecord := some r, openRecord := none })

/-- A pending trip, or else a pending request, is taken at the boundary (R117, R126). They are not held together
(R114). -/
def takePendingLoop (s : State) : State :=
  match s.loop.trip with
  | some t => takeTrip t s
  | none =>
    match s.loop.request with
    | some r => takeRequest r.target r.port s
    | none => s

/-- Each block puts its held SET values into force, the cycle manager last (R20, R177). -/
def takeHeldSettings (s : State) : State :=
  takeHeldTiming
    { s with
      slots := s.slots.map Slot.takeHeld
      probe := s.probe.takeHeld
      mirror := s.mirror.takeHeld
      capture := s.capture.takeHeld
      offload := s.offload.takeHeld }

/-- The manager enters IDLE if the loop state in force is IDLE, when the receivers empty their FIFOs, and ARMED otherwise
(R20, R43). -/
def leaveBoundary (s : State) : State := if s.loop.loop = .idle then stopCycles s else enterArmed s

/-- The boundary, once the drive vector has been handed over: APPLY, trip or request, held settings, IDLE or ARMED (R20,
log 11). -/
def boundary (s : State) : State := leaveBoundary (takeHeldSettings (takePendingLoop (takePendingApply s)))

/-- The hand-over of a close's results (R86): U and D committed, the drive vector given to the mirror link, the offload
unit and the capture unit, and the cycle record completed. -/
def handResults (w : WorkingSet) (o : OpenInfo) (info : CloseInfo) (s : State) : State :=
  let r := closeResult w
  let record : CycleRecord := { opened := o, close := info, counts := r.counts }
  completeRecord record (captureClose record (offloadClose o.cycle
    ((s.onCommand (CommandUnit.commit r)).onMirror (handOver (closedVector r w o.cycle)))))

/-- The close computation ends and the boundary is made (R86, R20). Without a computation in flight nothing ends
(log 4). -/
def closeComputationEnd (s : State) : State :=
  match s.command.working, s.manager.openRecord with
  | some w, some o =>
    match o.closing with
    | some info => boundary (handResults w o.opened info s)
    | none => s
  | _, _ => s

/-- CLOSE_COMPUTATION_END (R86, R20). -/
def execCloseComputationEnd (s : State) : Host.Outcome State Fault Refusal := s.unlessReset closeComputationEnd

end Sys2Proof.Machine
end

