-- ==== Sys2Proof/Machine/Settings.lean ====
section
/-!
DEFINITION. The SET commands of the slot table and the probe generator: SET_GEOMETRY, SET_SLOT, SET_PROBE. SET_TIMING,
SET_MIRROR, SET_CAPTURE and SET_OFFLOAD stand with the blocks that own their fields.
-/
namespace Sys2Proof.Machine

/-- The slots with the geometry part of a SET GEOMETRY in force (R48). -/
def withGeometry (g : Quad (Bool × Byte × Nat)) (slots : Quad Slot) : Quad Slot :=
  Quad.tabulate (fun l => (slots.get l).withGeometry (g.get l))

/-- The result data of SET GEOMETRY: the values accepted, in force at the arrival (R177, R202). -/
def geometryData (count : Nat) (slots : Quad Slot) : List Byte :=
  count16 count ++ (slots.toList.map Slot.geometryBytes).flatten ++ [0]

/-- An accepted geometry is in force at once, and SLOT-CHANGE is posted for each slot whose enabled field changed, in
ascending order (R48). -/
def takeGeometry (count : Nat) (g : Quad (Bool × Byte × Nat)) (s : State) : State :=
  forLinks (postEnableChange s.slots) links
    { s with slots := withGeometry g s.slots, command := { s.command with actuatorCount := count } }

/-- SET GEOMETRY at port `p` (R48): loop IDLE only. -/
def setGeometry (p : PortId) (x : GeometryParams) (s : State) : State :=
  if s.loop.loop ≠ .idle then s.reject p codeSetGeometry .wrongState
  else
    match checkGeometry x with
    | none => s.reject p codeSetGeometry .badParameter
    | some (count, g) =>
      (takeGeometry count g s).complete p codeSetGeometry (geometryData count (withGeometry g s.slots))

/-- SET SLOT at port `p` (R50): held for the named slot while a cycle is open, in force at once otherwise. -/
def setSlot (p : PortId) (x : SlotParams) (s : State) : State :=
  match checkSlot x with
  | none => s.reject p codeSetSlot .badParameter
  | some (l, t) =>
    if s.cycleIsOpen then
      (s.onSlot l (fun y => { y with heldPolicy := some t })).complete p codeSetSlot ([x.slot] ++ t.bytes ++ [1])
    else (s.onSlot l (Slot.withPolicy t)).complete p codeSetSlot ([x.slot] ++ t.bytes ++ [0])

/-- SET PROBE at port `p` (R132). -/
def setProbe (p : PortId) (mode : Byte) (s : State) : State :=
  match checkProbe mode with
  | none => s.reject p codeSetProbe .badParameter
  | some m =>
    if s.cycleIsOpen then
      (s.onProbe (fun g => { g with held := some m })).complete p codeSetProbe [m.code, 1]
    else (s.onProbe (fun _ => ProbeGenerator.withMode m)).complete p codeSetProbe [m.code, 0]

/-- SET_GEOMETRY taken at port `p` (R48). -/
def execSetGeometry (p : PortId) (x : GeometryParams) (s : State) : Host.Outcome State Fault Refusal :=
  s.unlessReset (State.arrive p (setGeometry p x))

/-- SET_SLOT taken at port `p` (R50). -/
def execSetSlot (p : PortId) (x : SlotParams) (s : State) : Host.Outcome State Fault Refusal :=
  s.unlessReset (State.arrive p (setSlot p x))

/-- SET_PROBE taken at port `p` (R132). -/
def execSetProbe (p : PortId) (mode : Byte) (s : State) : Host.Outcome State Fault Refusal :=
  s.unlessReset (State.arrive p (setProbe p mode))

end Sys2Proof.Machine
end

