-- ==== Sys2Proof/Machine/Reset.lean ====
section
/-!
DEFINITION. The resets: POWER_ON_RESET and RESET_END (R23, R34, R45, R185 and the power-on values of every block), and
RESET_PART, the soft reset (R183 and the soft reset of every block).
-/
namespace Sys2Proof.Machine

/-! ## Power-on reset and the reset line -/

/-- A receiver while the reset acts: its power-on state, but HOLD on the return path (R34, R45). -/
def Receiver.underReset : Receiver := { Receiver.powerOn with flow := .hold }

/-- Power-on or the reset line acts: every block is in its power-on state (R23, R45, R63, R82, R102, R129, R141, R156,
R170, R185, R193, R198), HOLD goes out on every return path, the raw level of the timing line stays what the pin gives,
and the filtered level, with the filter OFF, is that level (R8, log 6). The commands that wait are kept. -/
def powerOnReset (s : State) : State :=
  { State.reset with
    pending := s.pending
    resetActs := true
    line := { raw := s.line.raw, filtered := s.line.raw, measuring := none }
    receivers := Quad.fill Receiver.underReset }

/-- The reset's action ends: every receiver changes from HOLD to GO (R34, R45). Without a reset in action nothing ends
(log 5). -/
def resetEnd (s : State) : State :=
  if s.resetActs then
    { s with resetActs := false, receivers := s.receivers.map (fun r => { r with flow := .go }) }
  else s

/-! ## The soft reset -/

/-- The words written by the LOAD in execution (R169). -/
def StoreController.written (c : StoreController) : Nat :=
  match c.load with
  | .idle => 0
  | .loading j => j.written

/-- The code of RESET PART's effect on a port by its phase: nothing, record discarded, command withdrawn, result kept
(R183, R202). -/
def PortPhase.resetEffect : PortPhase → Byte
  | .idle => 0
  | .command => 1
  | .executing => 2
  | .result => 3

/-- The port's record is discarded during the transaction: the rest of a PUT is ignored, and a transaction whose kind is
not yet fixed is marked, so that it ignores its bytes should it become a PUT (R172, R183). -/
def Transaction.ignorePut (t : Transaction) : Transaction :=
  { t with kind := if t.kind = .put then .ignored else t.kind, discarded := true }

/-- A port whose record in reception is discarded (R183). -/
def Port.discardRecord (p : Port) : Port :=
  { p with activity := .idle, transaction := p.transaction.map Transaction.ignorePut }

/-- The data of a command withdrawn with reason RESET: for LOAD the words written, for APPLY the generation in force,
for LOOP the loop state in force (R119, R169). -/
def withdrawnData (c : ExecutingCommand) (s : State) : List Byte :=
  match c with
  | .load => count16 s.stores.written
  | .apply => bytes16 s.stores.generation
  | .loop => [s.loop.loop.code]

/-- RESET PART treats the other port `q` by its phase (the table of R183). -/
def resetOtherPort (q : PortId) (s : State) : State :=
  match (s.ports.get q).activity with
  | .idle => s
  | .command _ => s.onPort q Port.discardRecord
  | .executing c => s.withdraw q c.code .reset (withdrawnData c s)
  | .result _ _ => s

/-- A port's queue emptied and its lost count set to 0 (R181, R183). -/
def Port.clearQueue (p : Port) : Port := { p with queue := [], lost := 0 }

/-- The cycle manager's soft reset: IDLE with the timers stopped, a latched trigger dropped and counted, the open record
discarded, held values in force (R2, R24). -/
def softResetManager (s : State) : State :=
  takeHeldTiming ((managerToIdle s).onManager (fun m => { m with openRecord := none }))

/-- The loop state controller's soft reset: IDLE, no pending request or trip, the last trip record kept (R130). -/
def LoopController.softReset (c : LoopController) : LoopController := { c with loop := .idle, request := none, trip := none }

/-- The soft reset of every block but the cycle manager and the ports (R46, R64, R83, R103, R130, R141, R157, R169,
R193, R198). -/
def softResetBlocks (s : State) : State :=
  { s with
    receivers := s.receivers.map Receiver.softReset
    slots := s.slots.map Slot.softReset
    engine := Engine.powerOn
    stores := s.stores.softReset
    command := s.command.softReset
    loop := s.loop.softReset
    probe := s.probe.softReset
    mirror := s.mirror.softReset
    capture := s.capture.softReset
    offload := s.offload.softReset }

/-- RESET PART at port `p` (R183): the other port is treated by its phase, the queues are emptied, every block makes its
soft reset, LOOP-CHANGE with cause RESET is posted to both, and the command completes with the phase the other port was
in and what was done to it. -/
def resetPart (p : PortId) (s : State) : State :=
  let phase := (s.ports.get p.other).phase
  let withdrawn := resetOtherPort p.other s
  let emptied : State := { withdrawn with ports := withdrawn.ports.map Port.clearQueue }
  ((softResetBlocks (softResetManager emptied)).post (.loopChange s.loop.loop .idle (.reset p))).complete p codeResetPart
    [phase.code, phase.resetEffect]

/-! ## The commands -/

/-- POWER_ON_RESET (R23, R45, R185). -/
def execPowerOnReset (s : State) : Host.Outcome State Fault Refusal := .next (powerOnReset s)

/-- RESET_END (R45). -/
def execResetEnd (s : State) : Host.Outcome State Fault Refusal := .next (resetEnd s)

/-- RESET_PART taken at port `p` (R183). -/
def execResetPart (p : PortId) (s : State) : Host.Outcome State Fault Refusal :=
  s.unlessReset (State.arrive p (resetPart p))

end Sys2Proof.Machine
end

