-- ==== Sys2Proof/Machine/Ports.lean ====
section
/-!
DEFINITION. The supervisory ports (Chapter 11): transactions, the reception and the judging of command records, and the
commands the ports serve themselves; PORT_SELECT, TRANSACTION_BYTE, COMMAND_BYTE, RESULT_BYTE, PORT_DESELECT,
UNKNOWN_COMMAND, GET_STATUS, READ_COUNTERS, SENSE_EVENT.
-/
namespace Sys2Proof.Machine

/-! ## The commands the ports serve -/

/-- GET STATUS at port `p` (R178). -/
def getStatus (p : PortId) (s : State) : State := s.complete p codeGetStatus (statusData p s)

/-- Every counter of the list of R179 set to 0. -/
def clearCounters (s : State) : State :=
  { s with
    receivers := s.receivers.map (fun r => { r with counters := ReceiverCounters.zero })
    manager := { s.manager with counters := ManagerCounters.zero }
    mirror := { s.mirror with counters := MirrorCounters.zero }
    capture := { s.capture with drops := 0 }
    offload := { s.offload with overwrites := 0 } }

/-- READ COUNTERS at port `p`: KEEP, CLEAR, or a clear option the port refuses (R175, R179). -/
def readCounters (p : PortId) (clear : Byte) (s : State) : State :=
  match readFlag clear with
  | none => s.reject p codeReadCounters .badParameter
  | some false => s.complete p codeReadCounters (counterData s)
  | some true => (clearCounters s).complete p codeReadCounters (counterData s)

/-- A port after SENSE EVENT: the oldest record removed and the lost count set to 0 (R182). -/
def Port.sense (p : Port) : Port := { p with queue := p.queue.tail, lost := 0 }

/-- SENSE EVENT at port `p` (R182). -/
def senseEvent (p : PortId) (s : State) : State :=
  (s.onPort p Port.sense).complete p codeSenseEvent
    (senseData (s.ports.get p).queue.head? (s.ports.get p).lost)

/-- A complete record of code `code` at port `p` that names no command is refused (R175). A code that names a command
is not this command's (log 8). -/
def unknownCommand (p : PortId) (code : Byte) (s : State) : State :=
  if commandCodes.contains code then s else s.reject p code .unknownCommand

/-! ## Judging a complete record (R175) -/

/-- A LOOP command by its target byte; a target of no request is refused at the port (R175). -/
def loopCommand (p : PortId) (target : Byte) (s : State) : State :=
  match LoopTarget.ofByte target with
  | none => s.reject p codeLoop .badParameter
  | some .start => loopStart p s
  | some (.request t) => loopRequest t p s

/-- A command handed to the block that owns it (R175, 11.4). -/
def runCommand (p : PortId) (c : PortCommand) (s : State) : State :=
  match c with
  | .getStatus => getStatus p s
  | .readCounters x => readCounters p x s
  | .setGeometry x => setGeometry p x s
  | .setTiming x => setTiming p x s
  | .setSlot x => setSlot p x s
  | .setMirror x => setMirror p x s
  | .setProbe m => setProbe p m s
  | .setCapture x => setCapture p x s
  | .setOffload x => setOffload p x s
  | .load x => load p x s
  | .readBack x => readBack p x s
  | .apply w => apply p w s
  | .loop t => loopCommand p t s
  | .readOffload => readOffload p s
  | .senseEvent => senseEvent p s
  | .resetPart => resetPart p s

/-- A complete record is judged: code, then length, then handed over (R175, R201). A LOAD refused for its count is
refused without the words that the port did not hold (R161, R174). -/
def judge (p : PortId) (code : Byte) (counted : Nat) (params : List Byte) (s : State) : State :=
  if commandCodes.contains code then
    if requiredLength code params = some counted then
      match readParameters code params with
      | some c => runCommand p c s
      | none => s.reject p code .badLength
    else s.reject p code .badLength
  else s.reject p code .unknownCommand

/-! ## Reception of a record (R174) -/

/-- A new record begins with its code byte (R174). -/
def newRecordOf (code : Byte) : CommandRecord :=
  { code := code, lengthHigh := none, length := none, counted := 0, params := [] }

/-- A byte joins a record in reception: the high length byte, the low one, or a parameter byte, which is counted, and
held as far as the command's parameters need it (R174). -/
def CommandRecord.take (b : Byte) (r : CommandRecord) : CommandRecord :=
  match r.lengthHigh, r.length with
  | none, _ => { r with lengthHigh := some b }
  | some hi, none => { r with length := some (word16 hi b) }
  | some _, some _ =>
    { r with
      counted := r.counted + 1
      params := if r.params.length < heldBytes r.code then r.params ++ [b] else r.params }

/-- The record is complete: its length is received and as many parameter bytes are counted (R174). -/
def CommandRecord.isComplete (r : CommandRecord) : Bool :=
  match r.length with
  | none => false
  | some n => r.counted == n.toNat

/-- The port holds the record; a complete one is taken in the same event (R174, R175). -/
def receiveRecord (p : PortId) (r : CommandRecord) (s : State) : State :=
  if r.isComplete then judge p r.code r.counted r.params s
  else s.onPort p (fun q => { q with activity := .command r })

/-- A byte of a PUT offered to the command record: taken in IDLE or COMMAND, ignored in EXECUTING and RESULT (R172,
R174). -/
def offerByte (p : PortId) (b : Byte) (s : State) : State :=
  match (s.ports.get p).activity with
  | .idle => receiveRecord p (newRecordOf b) s
  | .command r => receiveRecord p (r.take b) s
  | .executing _ => s
  | .result _ _ => s

/-! ## Transactions (R172, R173) -/

/-- The kind of the transaction of a port, if one is in progress. -/
def Port.kind (p : Port) : Option TransactionKind := p.transaction.map Transaction.kind

/-- The select line is asserted: the status byte is formed (R173). Within a transaction it is asserted already (log 9). -/
def Port.select (p : Port) : Port :=
  match p.transaction with
  | some _ => p
  | none => { p with transaction := some { statusByte := p.statusByte, kind := .awaiting, discarded := false } }

/-- The kind that a transaction byte fixes (R172): a PUT in a transaction during which the port's record was discarded
ignores its bytes, and a TAKE outside RESULT returns 00h throughout. -/
def Port.kindOf (b : Byte) (discarded : Bool) (p : Port) : TransactionKind :=
  if b = 1 then .status
  else if b = 2 ∧ discarded = false then .put
  else if b = 3 ∧ p.phase = .result then .take
  else .ignored

/-- The transaction byte is received in full: the kind is fixed and the status byte has been sent (R172). -/
def Port.takeTransactionByte (b : Byte) (p : Port) : Port :=
  match p.transaction with
  | none => p
  | some t =>
    if t.kind = .awaiting then
      { p with transaction := some { t with kind := p.kindOf b t.discarded }, sent := t.statusByte }
    else p

/-- The part answers a further byte with 00h (R172). -/
def Port.answerZero (p : Port) : Port := { p with sent := 0 }

/-- The last byte of a result has been sent: the result is absent, the port is IDLE, and the TAKE transaction answers
further bytes with 00h (R176). -/
def Port.resultTaken (p : Port) : Port :=
  { p with activity := .idle, transaction := p.transaction.map (fun t => { t with kind := .ignored }) }

/-- A byte of a TAKE sent in full: the byte at the read position, which advances (R176). -/
def Port.sendResultByte (p : Port) : Port :=
  match p.activity with
  | .result r n =>
    let q := { p with sent := r.bytes.getD n 0, activity := .result r (n + 1) }
    if n + 1 < r.bytes.length then q else q.resultTaken
  | .idle => p.answerZero
  | .command _ => p.answerZero
  | .executing _ => p.answerZero

/-- A further byte of a STATUS, PUT or ignored transaction (R172): answered with 00h, and offered in a PUT. In a TAKE
the bytes sent are result bytes, and before the transaction byte or outside a transaction there is no further byte
(log 9). -/
def commandByte (p : PortId) (b : Byte) (s : State) : State :=
  match (s.ports.get p).kind with
  | some .put => offerByte p b (s.onPort p Port.answerZero)
  | some .status => s.onPort p Port.answerZero
  | some .ignored => s.onPort p Port.answerZero
  | some .take => s
  | some .awaiting => s
  | none => s

/-- A further byte of a TAKE, or of a STATUS or ignored transaction, in which 00h is sent (R172, R176). A PUT's bytes
are command bytes (log 9). -/
def resultByte (p : PortId) (s : State) : State :=
  match (s.ports.get p).kind with
  | some .take => s.onPort p Port.sendResultByte
  | some .status => s.onPort p Port.answerZero
  | some .ignored => s.onPort p Port.answerZero
  | some .put => s
  | some .awaiting => s
  | none => s

/-! ## The commands -/

/-- PORT_SELECT (R173). -/
def execPortSelect (p : PortId) (s : State) : Host.Outcome State Fault Refusal :=
  s.unlessReset (fun s => s.onPort p Port.select)

/-- TRANSACTION_BYTE (R172). -/
def execTransactionByte (p : PortId) (b : Byte) (s : State) : Host.Outcome State Fault Refusal :=
  s.unlessReset (fun s => s.onPort p (Port.takeTransactionByte b))

/-- COMMAND_BYTE (R172, R174). -/
def execCommandByte (p : PortId) (b : Byte) (s : State) : Host.Outcome State Fault Refusal :=
  s.unlessReset (commandByte p b)

/-- RESULT_BYTE (R172, R176). -/
def execResultByte (p : PortId) (s : State) : Host.Outcome State Fault Refusal := s.unlessReset (resultByte p)

/-- PORT_DESELECT: the transaction ends; a byte not received in full has had no effect (R172). -/
def execPortDeselect (p : PortId) (s : State) : Host.Outcome State Fault Refusal :=
  s.unlessReset (fun s => s.onPort p (fun q => { q with transaction := none }))

/-- UNKNOWN_COMMAND taken at port `p` (R175). -/
def execUnknownCommand (p : PortId) (code : Byte) (s : State) : Host.Outcome State Fault Refusal :=
  s.unlessReset (State.arrive p (unknownCommand p code))

/-- GET_STATUS taken at port `p` (R178). -/
def execGetStatus (p : PortId) (s : State) : Host.Outcome State Fault Refusal :=
  s.unlessReset (State.arrive p (getStatus p))

/-- READ_COUNTERS taken at port `p` (R179). -/
def execReadCounters (p : PortId) (clear : Byte) (s : State) : Host.Outcome State Fault Refusal :=
  s.unlessReset (State.arrive p (readCounters p clear))

/-- SENSE_EVENT taken at port `p` (R182). -/
def execSenseEvent (p : PortId) (s : State) : Host.Outcome State Fault Refusal :=
  s.unlessReset (State.arrive p (senseEvent p))

end Sys2Proof.Machine
end

