-- ==== Sys2Proof/Machine/Dispatch.lean ====
section
/-!
DEFINITION. One arm for each command of the part, each a call of its meaning.
-/
namespace Sys2Proof.Machine

def exec (i : Instr) (s : State) : Host.Outcome State Fault Refusal :=
  match i with
  | .powerOnReset => Sys2Proof.Machine.execPowerOnReset s
  | .linkStartSymbol l => Sys2Proof.Machine.execLinkStartSymbol l s
  | .linkDataSymbol l w => Sys2Proof.Machine.execLinkDataSymbol l w s
  | .linkEndSymbol l => Sys2Proof.Machine.execLinkEndSymbol l s
  | .linkFillSymbol l => Sys2Proof.Machine.execLinkFillSymbol l s
  | .linkInvalidSymbol l => Sys2Proof.Machine.execLinkInvalidSymbol l s
  | .timingLineChange => Sys2Proof.Machine.execTimingLineChange s
  | .lineFilterExpiry => Sys2Proof.Machine.execLineFilterExpiry s
  | .lineDelayExpiry => Sys2Proof.Machine.execLineDelayExpiry s
  | .periodExpiry => Sys2Proof.Machine.execPeriodExpiry s
  | .fallbackExpiry => Sys2Proof.Machine.execFallbackExpiry s
  | .deadlineExpiry => Sys2Proof.Machine.execDeadlineExpiry s
  | .groupOperationEnd => Sys2Proof.Machine.execGroupOperationEnd s
  | .closeComputationEnd => Sys2Proof.Machine.execCloseComputationEnd s
  | .addressSent => Sys2Proof.Machine.execAddressSent s
  | .boardReady => Sys2Proof.Machine.execBoardReady s
  | .boardBusy => Sys2Proof.Machine.execBoardBusy s
  | .readyTimeout => Sys2Proof.Machine.execReadyTimeout s
  | .blockSent => Sys2Proof.Machine.execBlockSent s
  | .boardAck => Sys2Proof.Machine.execBoardAck s
  | .boardNak => Sys2Proof.Machine.execBoardNak s
  | .ackTimeout => Sys2Proof.Machine.execAckTimeout s
  | .gapEnd => Sys2Proof.Machine.execGapEnd s
  | .telemetryGo => Sys2Proof.Machine.execTelemetryGo s
  | .telemetryHold => Sys2Proof.Machine.execTelemetryHold s
  | .telemetrySymbolSent => Sys2Proof.Machine.execTelemetrySymbolSent s
  | .portSelect p => Sys2Proof.Machine.execPortSelect p s
  | .transactionByte p b => Sys2Proof.Machine.execTransactionByte p b s
  | .commandByte p b => Sys2Proof.Machine.execCommandByte p b s
  | .resultByte p => Sys2Proof.Machine.execResultByte p s
  | .portDeselect p => Sys2Proof.Machine.execPortDeselect p s
  | .unknownCommand p code => Sys2Proof.Machine.execUnknownCommand p code s
  | .getStatus p => Sys2Proof.Machine.execGetStatus p s
  | .readCounters p clear => Sys2Proof.Machine.execReadCounters p clear s
  | .setGeometry p x => Sys2Proof.Machine.execSetGeometry p x s
  | .setTiming p x => Sys2Proof.Machine.execSetTiming p x s
  | .setSlot p x => Sys2Proof.Machine.execSetSlot p x s
  | .setMirror p x => Sys2Proof.Machine.execSetMirror p x s
  | .setProbe p mode => Sys2Proof.Machine.execSetProbe p mode s
  | .setCapture p x => Sys2Proof.Machine.execSetCapture p x s
  | .setOffload p x => Sys2Proof.Machine.execSetOffload p x s
  | .load p x => Sys2Proof.Machine.execLoad p x s
  | .loadWordWrite => Sys2Proof.Machine.execLoadWordWrite s
  | .readBack p x => Sys2Proof.Machine.execReadBack p x s
  | .apply p selection => Sys2Proof.Machine.execApply p selection s
  | .loopStart p => Sys2Proof.Machine.execLoopStart p s
  | .loopClose p => Sys2Proof.Machine.execLoopClose p s
  | .loopFreeze p => Sys2Proof.Machine.execLoopFreeze p s
  | .loopOpen p => Sys2Proof.Machine.execLoopOpen p s
  | .loopStop p => Sys2Proof.Machine.execLoopStop p s
  | .readOffload p => Sys2Proof.Machine.execReadOffload p s
  | .senseEvent p => Sys2Proof.Machine.execSenseEvent p s
  | .resetPart p => Sys2Proof.Machine.execResetPart p s
  | .timebaseTick => Sys2Proof.Machine.execTimebaseTick s
  | .resetEnd => Sys2Proof.Machine.execResetEnd s

end Sys2Proof.Machine
end

