-- ==== Sys2Proof/Machine/Step.lean ====
section
/-!
DEFINITION. One step of the part: the command at the front of the queue is taken, and its effect made on the rest. The
block idles on an empty queue (log 1).
-/
namespace Sys2Proof.Machine

/-- Take the command at the front of the queue and run it; with no command waiting, nothing changes (log 1). -/
def step (s : State) : Host.Outcome State Fault Refusal :=
  match s.pending with
  | [] => .next s
  | c :: rest => exec c { s with pending := rest }

/-- `s` with the command that the word spells at the front of its queue; unchanged where the word spells none. No row
of the table gives bits, so no word spells a command (log 2). -/
def State.withFetchWord (s : State) (nbits w : Nat) : State :=
  match decodeTableWord nbits w with
  | none => s
  | some c => { s with pending := c :: s.pending }

end Sys2Proof.Machine
end

