-- ==== Sys2Proof/Safety.lean ====
section
/-!
DEFINITION. The properties that statements speak of: when a port can take a command, the canonical form of every array
of words, the bounds and agreements that every step is claimed to keep, what the opening and the close of a cycle start,
the close with cause COMPLETE, the engine's choice, the abandonment of a stored frame, and the telemetry header.
-/
namespace Sys2Proof.Machine

/-- No reset acts, and port `p` can take a command (R172, R174, log 5, log 8). -/
abbrev State.portReady (s : State) (p : PortId) : Prop :=
  s.resetActs = false ∧ (s.ports.get p).takesCommand = true

/-! ## Canonical arrays -/

/-- Every store of a copy is in canonical form. -/
def Stores.wf (c : Stores) : Bool :=
  Cells.wf StoreId.matrix.powerOn c.matrix && Cells.wf StoreId.refslopes.powerOn c.refslopes &&
    Cells.wf StoreId.offsets.powerOn c.offsets && Cells.wf StoreId.limits.powerOn c.limits &&
    Cells.wf StoreId.gains.powerOn c.gains && Cells.wf StoreId.groupmap.powerOn c.groupmap &&
    Cells.wf StoreId.neighbours.powerOn c.neighbours && Cells.wf StoreId.probes.powerOn c.probes &&
    Cells.wf StoreId.offloadvec.powerOn c.offloadvec

/-- Each of four arrays is in canonical form. -/
def Quad.cellsWf {w : Nat} (q : Quad (Cells w)) : Bool :=
  Cells.wf zeroCell q.q0 && Cells.wf zeroCell q.q1 && Cells.wf zeroCell q.q2 && Cells.wf zeroCell q.q3

/-- The arrays of the engine are in canonical form. -/
def Engine.memoryWf (e : Engine) : Bool :=
  Quad.cellsWf e.fresh && Quad.cellsWf e.held && Cells.wf zeroCell e.residuals &&
    e.inFlight.all (fun o => Cells.wf zeroCell o.sums)

/-- The arrays of a working set are in canonical form. -/
def WorkingSet.memoryWf (w : WorkingSet) : Bool :=
  Quad.cellsWf w.contributions && Cells.wf StoreId.gains.powerOn w.gains &&
    Cells.wf StoreId.groupmap.powerOn w.groupmap && Cells.wf StoreId.offsets.powerOn w.offsets &&
    Cells.wf StoreId.limits.powerOn w.limits && Cells.wf StoreId.neighbours.powerOn w.neighbours &&
    Cells.wf zeroCell w.probe && Cells.wf zeroCell w.u

/-- The arrays of the command unit are in canonical form. -/
def CommandUnit.memoryWf (c : CommandUnit) : Bool :=
  Cells.wf zeroCell c.u && Cells.wf zeroCell c.d && c.working.all WorkingSet.memoryWf

/-- The drive vectors of the mirror link controller are in canonical form. -/
def MirrorLink.memoryWf (m : MirrorLink) : Bool :=
  m.pendingVector.all (fun v => Cells.wf zeroCell v.values) &&
    m.activity.writeout.all (fun w => Cells.wf zeroCell w.vector.values)

/-- Every array of words in the state is in canonical form: indices strictly rising, no entry equal to what an unlisted
index reads as. -/
def State.memoryWf (s : State) : Bool :=
  s.stores.active.wf && s.stores.shadow.wf && s.engine.memoryWf && s.command.memoryWf && s.mirror.memoryWf

/-! ## Bounds -/

/-- Both event queues hold at most 16 records (R171, R180). -/
def State.queuesBounded (s : State) : Prop := s.ports.pA.queue.length ≤ 16 ∧ s.ports.pB.queue.length ≤ 16

/-- The telemetry FIFO holds at most 65,536 words (R191). -/
def State.telemetryBounded (s : State) : Prop := (s.capture.fifo.map List.length).sum ≤ 65536

/-- Every staging FIFO holds at most 64 groups (2.5, R33, R36). -/
def State.stagingBounded (s : State) : Prop := ∀ l : LinkId, fifoGroups (s.receivers.get l).fifo ≤ 64

/-- The hold limits of a slot, in force and held, are at most 15, and its hold age is at most 16 (R47, R56). -/
def Slot.agesBounded (x : Slot) : Prop :=
  x.age ≤ 16 ∧ x.policy.holdLimit ≤ 15 ∧ ∀ p ∈ x.heldPolicy, p.holdLimit ≤ 15

/-- Every slot's hold age is in 0..16 (R56). -/
def State.agesBounded (s : State) : Prop := ∀ l : LinkId, (s.slots.get l).agesBounded

/-! ## Agreements -/

/-- The pending request and the pending trip are not held at the same time (R114). -/
def State.oneLoopChange (s : State) : Prop := s.loop.request = none ∨ s.loop.trip = none

/-- The cycle manager is IDLE exactly while the loop is IDLE (1.1, 7.1). -/
def State.idleTogether (s : State) : Prop := s.manager.state = .idle ↔ s.loop.loop = .idle

/-- The cycle manager's state, the open record and the command unit agree: in GATHERING a cycle is open and not closed,
in CLOSING it is closed and its computation in flight, in IDLE and ARMED there is neither (1.1, R13, R19, R20). -/
def State.cycleCoherent (s : State) : Prop :=
  match s.manager.state with
  | .idle => s.manager.openRecord = none ∧ s.command.working = none
  | .armed => s.manager.openRecord = none ∧ s.command.working = none
  | .gathering => (∃ o, s.manager.openRecord = some o ∧ o.closing = none) ∧ s.command.working = none
  | .closing => (∃ o info, s.manager.openRecord = some o ∧ o.closing = some info) ∧ s.command.working.isSome

/-- What waits for a boundary waits only while a cycle is open (R117, R124, R165). -/
def State.waitsInCycle (s : State) : Prop :=
  s.cycleIsOpen = true ∨ (s.loop.request = none ∧ s.loop.trip = none ∧ s.stores.pendingApply = none)

/-- A port is EXECUTING exactly while an owner holds its command: a LOOP while its request is pending, an APPLY while
it is pending, a LOAD while the load engine writes it (R171). -/
def State.executionsHeld (s : State) : Prop :=
  ∀ p : PortId,
    ((s.ports.get p).activity = .executing .loop ↔ ∃ r, s.loop.request = some r ∧ r.port = p) ∧
      ((s.ports.get p).activity = .executing .apply ↔ ∃ a, s.stores.pendingApply = some a ∧ a.port = p) ∧
      ((s.ports.get p).activity = .executing .load ↔ ∃ j, s.stores.load = .loading j ∧ j.port = p)

/-! ## Cycles and close computations -/

/-- Slot `l` is expected in a cycle that opens in `s`: it is enabled, not muted, and due by its cadence count, or the lead
slot in LEAD mode (R51, R52). -/
abbrev State.expects (s : State) (l : LinkId) : Prop :=
  (s.slots.get l).enabled = true ∧ (s.slots.get l).muted = false ∧
    ((s.slots.get l).cadence = 0 ∨ (s.manager.settings.mode = .lead ∧ s.manager.settings.leadSlot = l))

/-- A change of the FIFO of link `l` sets nothing else off in `s`: no attach attempt of the slot can succeed (R15), the lead
trigger condition does not hold (R6), and the engine is busy or has no candidate (R68, R70). -/
abbrev State.settledAt (s : State) (l : LinkId) : Prop :=
  (s.manager.state ≠ .gathering ∨ ∀ o, s.manager.openRecord = some o → o.statuses.get l ≠ some .waiting) ∧
    (s.manager.state ≠ .armed ∨ s.manager.settings.mode ≠ .lead ∨
      (s.slots.get s.manager.settings.leadSlot).muted = true ∨
      (s.receivers.get s.manager.settings.leadSlot).fifo = []) ∧
    (s.engine.inFlight ≠ none ∨ ∀ k, isCandidate s k = false)

/-- What the probe generator hands over at a close made from `s`, and its advance (R133 to R137): no position and no terms
in mode OFF; else the position in force and, for every actuator below the count, the saturated sum of the amplitudes that
name it in the position's probe slot, with the sign of the position. -/
abbrev State.probeSupplied (s t : State) (terms : Cells 16) (position : Option Nat) : Prop :=
  (s.probe.mode = .off → position = none ∧ t.probe = { s.probe with position := 0 } ∧ ∀ a, terms.at a = 0) ∧
    ∀ k, s.probe.mode = .on k → position = some s.probe.position ∧
      t.probe = { s.probe with position := if s.probe.position + 1 < 2 * k then s.probe.position + 1 else 0 } ∧
      (∀ a, s.command.actuatorCount ≤ a → terms.at a = 0) ∧
      ∀ (a base : Nat) (x : Int), a < s.command.actuatorCount → base = 129 * (s.probe.position / 2) →
        x = max (-32768) (min 32767 (((List.range (min (storeWord .probes s.stores.active.probes base).toNat 64)).map
          (fun e => if (storeWord .probes s.stores.active.probes (base + (2 * e + 1))).toNat = a then
            (storeWord .probes s.stores.active.probes (base + (2 * e + 2))).toInt else 0)).sum)) →
        (terms.at a).toInt = if s.probe.position % 2 = 0 then x else max (-32768) (min 32767 (-x))

/-- A close made from `s` with close fields `info`, of a cycle opened in loop state `loop`, leaves `t` with its close
computation in flight, and with the working set of R85: the selections, the held contributions after the engine's copy, the
loop state of the open record, the active stores, the probe terms, the actuator count and the present U. -/
abbrev State.startsComputation (s t : State) (loop : LoopState) (info : CloseInfo) : Prop :=
  ∃ w, t.command = { s.command with working := some w } ∧ w.selections = info.selections ∧
    w.contributions = t.engine.held ∧ w.loop = loop ∧ w.gains = s.stores.active.gains ∧
    w.groupmap = s.stores.active.groupmap ∧ w.offsets = s.stores.active.offsets ∧
    w.limits = s.stores.active.limits ∧ w.neighbours = s.stores.active.neighbours ∧
    w.count = s.command.actuatorCount ∧ w.u = s.command.u ∧ s.probeSupplied t w.probe info.probePosition

/-- The close made from `s` with cause COMPLETE, where slot `last` of the open record `rec` becomes ARRIVED with every other
expected slot arrived, leaves `t` (R16, R19). An arrived slot is selected FRESH with age 0, is ACTIVE unless muted, and posts
SLOT-CHANGE where it was LOST, in ascending slot order (R54, R60); a slot that is not expected keeps age and state and is
selected NOT-EXPECTED or MUTED (R53). The held contributions follow the selections, that of `last` apart, and every
attachment record goes (R78); the close computation starts (R85). Nothing else changes. -/
abbrev State.closesComplete (s t : State) (rec : OpenRecord) (last : LinkId) : Prop :=
  ∃ info : CloseInfo, info.cause = .complete ∧ info.time = s.manager.timebase ∧ info.previous = s.mirror.latest ∧
    s.startsComputation t rec.opened.loop info ∧
    t.manager = { s.manager with
      state := .closing
      deadline := none
      openRecord := some { rec with statuses := rec.statuses.set last (some .arrived), closing := some info } } ∧
    (∀ l : LinkId,
      t.engine.records.get l = none ∧
      (l ≠ last → t.engine.held.get l =
        if info.selections.get l = .fresh then s.engine.fresh.get l else s.engine.held.get l) ∧
      ((s.slots.get l).enabled = true → (l = last ∨ rec.statuses.get l = some .arrived) →
        t.slots.get l = { s.slots.get l with
          age := 0
          state := if (s.slots.get l).muted then (s.slots.get l).state else .active } ∧
        info.selections.get l = .fresh ∧ info.ages.get l = 0 ∧
          info.sequences.get l = (s.receivers.get l).attachedSeq) ∧
      ((s.slots.get l).enabled = false ∨ (l ≠ last ∧ rec.statuses.get l = none) →
        t.slots.get l = s.slots.get l ∧ info.ages.get l = (s.slots.get l).age ∧
        info.sequences.get l = (s.receivers.get l).receivedSeq ∧
          info.selections.get l =
            if (s.slots.get l).enabled = true ∧ (s.slots.get l).muted = true then .muted else .notExpected)) ∧
    t.ports = ([(0 : LinkId), 1, 2, 3].foldl (fun (u : State) l =>
      if (s.slots.get l).enabled = true ∧ (l = last ∨ rec.statuses.get l = some .arrived) ∧
          (s.slots.get l).muted = false ∧ (s.slots.get l).state = .lost then u.post (.slotChange l .active)
      else u) s).ports ∧
    { t with manager := s.manager, slots := s.slots, engine := s.engine, command := s.command, probe := s.probe,
             ports := s.ports } = s

/-! ## The engine's choice and the abandonment of a stored frame -/

/-- The engine's choice in `u`, with no operation in flight, leaves `t` (R68 to R73). Without a candidate nothing changes.
Else the first candidate from the pointer on, ascending with wrap, is served: the pointer passes it, the oldest group of the
frame at its head leaves the FIFO, with the entry if that is verified and this was its last group, the flow symbol is
re-evaluated, and the operation in flight has the residuals, saturated, and the exact sums of that group. Nothing else
changes; a frame that becomes first is offered to a slot that is not WAITING, which refuses it. -/
abbrev State.engineChooses (u t : State) : Prop :=
  ((∀ k, isCandidate u k = false) → t = u) ∧
    ∀ (n l : LinkId) (e : FifoEntry) (g : List Word) (gs : List (List Word)) (rest left : List FifoEntry),
      l = u.engine.pointer + n → isCandidate u l = true →
      (∀ m, m < n → isCandidate u (u.engine.pointer + m) = false) →
      (u.receivers.get l).fifo = e :: rest → e.groups = g :: gs → g.length = 32 →
      left = (if e.verified = true ∧ gs = [] then rest else { e with groups := gs, taken := e.taken + 1 } :: rest) →
      (u.manager.state ≠ .gathering ∨ ∀ o, u.manager.openRecord = some o → o.statuses.get l ≠ some .waiting) →
      ∃ x : Operation, x.slot = l ∧ x.group = e.taken ∧ x.isVoid = false ∧
        x.firstIndex = slopeBase u.slots l + 32 * e.taken ∧ x.residuals.length = 32 ∧
        (∀ k, k < 32 → (x.residuals.getD k 0).toInt =
          max (-32768) (min ((g.getD k 0).toInt -
            (storeWord .refslopes u.stores.active.refslopes (x.firstIndex + k)).toInt) 32767)) ∧
        (∀ a, a < u.command.actuatorCount → (x.sums.at a).toInt =
          ((List.range 32).map (fun k => (x.residuals.getD k 0).toInt *
            (storeWord .matrix u.stores.active.matrix ((x.firstIndex + k) * 1024 + a)).toInt)).sum) ∧
        (∀ a, u.command.actuatorCount ≤ a → x.sums.at a = 0) ∧
        t = { u with
          engine := { u.engine with inFlight := some x, pointer := l + 1 }
          receivers := u.receivers.set l { u.receivers.get l with
            fifo := left
            flow := if fifoGroups left ≤ 32 then .go else (u.receivers.get l).flow } }

/-- The command `c` abandons the frame in STORING on link `l` (R17, R36 to R38, R75): the decoder becomes `d`, reception goes
on in `next`, and the counters change by `count`. A queued frame's entry leaves and the flow symbol is re-evaluated; nothing
else changes. For an attached frame in GATHERING the entry leaves, the slot becomes ABANDONED, its fresh contribution and
residuals are cleared, its record is DISCARDED and its operation in flight void. -/
abbrev State.abandonsStored (s : State) (c : Instr) (l : LinkId) (d : Decoder) (next : Reception)
    (count : ReceiverCounters → ReceiverCounters) : Prop :=
  (∀ front e, (s.receivers.get l).fifo = front ++ [e] → e.attached = false → s.settledAt l →
    exec c s = .next (s.onReceiver l (fun r =>
      { r with
        decoder := d
        reception := next
        counters := count r.counters
        fifo := front
        flow := if fifoGroups front ≤ 32 then .go else r.flow }))) ∧
    ∃ t, exec c s = .next t ∧ (t.receivers.get l).reception = next ∧ (t.receivers.get l).decoder = d ∧
      (t.receivers.get l).counters = count (s.receivers.get l).counters ∧
      (t.receivers.get l).receivedSeq = (s.receivers.get l).receivedSeq ∧
      (t.receivers.get l).lastGoodSeq = (s.receivers.get l).lastGoodSeq ∧
      (t.receivers.get l).primed = (s.receivers.get l).primed ∧
      ∀ front e o v g r, (s.receivers.get l).fifo = front ++ [e] → e.attached = true →
        s.manager.state = .gathering → s.manager.openRecord = some o → o.statuses.get l = some (.attached v g) →
        s.engine.records.get l = some r → r.state ≠ .discarded →
        (t.receivers.get l).fifo = front ∧
          (t.receivers.get l).flow = (if fifoGroups front ≤ 32 then .go else (s.receivers.get l).flow) ∧
          (∀ a, (t.engine.fresh.get l).at a = 0) ∧
          (∀ j, slopeBase s.slots l ≤ j → j < slopeBase s.slots l + (s.slots.get l).slopeCount →
            t.engine.residuals.at j = 0) ∧
          t.engine.records.get l = some { r with state := .discarded } ∧
          (∀ x, s.engine.inFlight = some x → x.slot = l → t.engine.inFlight = some { x with isVoid := true }) ∧
          ∃ o', t.manager.openRecord = some o' ∧ o'.statuses.get l = some .abandoned

/-! ## The telemetry header -/

/-- Words 1 to 23 of the telemetry header of a cycle record, word by word (13.6). -/
abbrev CycleRecord.laidOut (r : CycleRecord) (ws : List Word) : Prop :=
  ∃ w22 w23 : Word,
    (match r.close.previous with
      | none => w22 = 0 ∧ w23 = 0x8000
      | some x => w22 = x.cycle.extractLsb' 0 16 ∧
          (∀ b : BoardId, w23.getLsbD b.val = decide (x.outcomes.get b = .acked)) ∧ w23.getLsbD 8 = x.skipped ∧
          w23.extractLsb' 9 7 = 0) ∧
    ws =
      [r.opened.cycle.extractLsb' 16 16, r.opened.cycle.extractLsb' 0 16, r.opened.time.extractLsb' 32 16,
        r.opened.time.extractLsb' 16 16, r.opened.time.extractLsb' 0 16, r.close.time.extractLsb' 32 16,
        r.close.time.extractLsb' 16 16, r.close.time.extractLsb' 0 16,
        BitVec.ofNat 16
          (16384 * (match r.opened.cause with
              | .lead => 0
              | .line => 1
              | .timer => 2
              | .fallback => 3) +
            8192 * (if r.opened.lateStart then 1 else 0) +
            4096 * (match r.close.cause with
              | .complete => 0
              | .deadline => 1) +
            1024 * (match r.opened.loop with
              | .idle => 0
              | .opened => 1
              | .closed => 2
              | .frozen => 3) +
            (match r.close.probePosition with
              | none => 15
              | some p => p)),
        r.opened.generation] ++
      [(0 : LinkId), 1, 2, 3].map (fun l => BitVec.ofNat 16
        (256 * (match r.close.selections.get l with
            | .fresh => 0
            | .held => 1
            | .zeroed => 2
            | .notExpected => 3
            | .muted => 4) +
          r.close.ages.get l)) ++
      [(0 : LinkId), 1, 2, 3].map r.close.sequences.get ++
      [BitVec.ofNat 16 r.counts.limited, BitVec.ofNat 16 r.counts.adjustments, BitVec.ofNat 16 r.counts.residual, w22, w23]

end Sys2Proof.Machine
end

