-- ==== Sys2Proof/Certificates/Slice0/Obligations.lean ====
section
/-!
DEFINITION. The statements for the provers, in the order of OBLIGATIONS.json.
-/
open Sys2Proof Sys2Proof.Machine

/-! ## The step -/

/-- A step takes the command at the front of the queue and makes its effect on the rest; with no command waiting
nothing changes (log 1, the model's choice). -/
def Obligations.StepRunsFrontCommand : Prop :=
  (∀ (s : State) (c : Instr) (rest : List Instr), s.pending = c :: rest → step s = exec c { s with pending := rest }) ∧
    ∀ s : State, s.pending = [] → step s = .next s

/-- No step ends in a fault or a refusal: the manual names no behaviour that stops the part (log 26, the model's choice).
Each step takes exactly one waiting command from the queue and adds none (log 1, the model's choice). -/
def Obligations.StepNeverStops : Prop := ∀ s : State, ∃ t, step s = .next t ∧ t.pending = s.pending.tail

/-- While the reset acts, no command has an effect but the reset itself, its end, the reference clock and the level of
the timing line (log 5, the model's choice). -/
def Obligations.ResetSuspendsCommands : Prop :=
  ∀ (c : Instr) (s : State), s.resetActs = true → c ≠ .powerOnReset → c ≠ .resetEnd → c ≠ .timebaseTick →
    c ≠ .timingLineChange → exec c s = .next s

/-! ## Reset -/

/-- POWER_ON_RESET: both copies of every store at the power-on contents of R159, the generation 0, the load engine IDLE,
no pending APPLY (R170). -/
def Obligations.PowerOnResetStores : Prop :=
  ∀ s : State, ∃ t, exec .powerOnReset s = .next t ∧
    (∀ i, (storeWord .limits t.stores.active.limits i = if i % 2 = 0 then 0x8000 else 0x7FFF) ∧
      (storeWord .limits t.stores.shadow.limits i = if i % 2 = 0 then 0x8000 else 0x7FFF) ∧
      (storeWord .gains t.stores.active.gains i = if i % 2 = 0 then 0 else 0xFFFF) ∧
      (storeWord .gains t.stores.shadow.gains i = if i % 2 = 0 then 0 else 0xFFFF)) ∧
    (∀ id : StoreId, id ≠ .limits → id ≠ .gains → ∀ i,
      storeWord id (t.stores.active.get id) i = 0 ∧ storeWord id (t.stores.shadow.get id) i = 0) ∧
    t.stores.generation = 0 ∧ t.stores.load = .idle ∧ t.stores.pendingApply = none

/-- POWER_ON_RESET: cycle manager, timing line input, loop state controller, slots, engine, command unit, probe generator,
mirror link, ports, capture and offload units (R23, R63, R82, R102, R129, R156, R185 and the power-on parts of R141, R193,
R198). The raw level of the pin is kept (log 6, the model's choice). -/
def Obligations.PowerOnResetBlocks : Prop :=
  ∀ s : State, ∃ t, exec .powerOnReset s = .next t ∧
    t.manager =
      { state := .idle, timebase := 0, cycle := 0,
        settings := { mode := .timer, leadSlot := 0, edge := .rising, filter := .off, delay := 0, period := 10000,
                      deadline := 9000, queue := true, fallback := 0 },
        held := none, latch := none, lineDelay := none, period := none, deadline := none, fallback := none,
        openRecord := none, lastRecord := none, counters := ⟨0, 0, 0, 0, 0⟩ } ∧
    t.line = { raw := s.line.raw, filtered := s.line.raw, measuring := none } ∧
    t.loop = { loop := .idle, request := none, trip := none, lastTrip := none } ∧
    t.pending = s.pending ∧
    (∀ l, t.slots.get l =
      { enabled := false, tag := 0, slopeCount := 32,
        policy := { divisor := 1, phase := 0, late := .hold, holdLimit := 3, outOfCycle := .queue, lossAction := .ignore },
        heldPolicy := none, state := .disabled, age := 0, muted := false, cadence := 0 }) ∧
    t.engine.pointer = 0 ∧ t.engine.inFlight = none ∧ (∀ l, t.engine.records.get l = none) ∧
    (∀ l a, (t.engine.fresh.get l).at a = 0 ∧ (t.engine.held.get l).at a = 0) ∧ (∀ j, t.engine.residuals.at j = 0) ∧
    t.command.actuatorCount = 1024 ∧ t.command.working = none ∧ (∀ a, t.command.u.at a = 0 ∧ t.command.d.at a = 0) ∧
    t.probe = { mode := .off, held := none, position := 0 } ∧
    t.mirror.activity = .idle ∧ t.mirror.pendingVector = none ∧ t.mirror.latest = none ∧ t.mirror.held = none ∧
    t.mirror.line = [] ∧ (∀ b, t.mirror.boards.get b = { state := .unknown, faults := 0 }) ∧
    t.mirror.settings = { readyTimeout := 200, ackTimeout := 200, gap := 0, faultLimit := 3 } ∧
    t.mirror.counters.sent = 0 ∧ t.mirror.counters.skipped = 0 ∧
    (∀ b, t.mirror.counters.boards.get b = ⟨0, 0, 0, 0⟩) ∧
    (∀ p, (t.ports.get p).activity = .idle ∧ (t.ports.get p).transaction = none ∧ (t.ports.get p).queue = [] ∧
      (t.ports.get p).lost = 0 ∧ (t.ports.get p).attention = false ∧ (t.ports.get p).statusByte = 0x80) ∧
    t.capture = { settings := { pattern := .off, drive := false, residual := false }, held := none, position := 0,
                  fifo := [], drops := 0, sender := .idle, symbol := .fill, flow := .go } ∧
    t.offload = { settings := { window := 0, mask := 0 }, held := none, accumulators := ⟨0, 0, 0, 0⟩, count := 0,
                  mailbox := none, fresh := false, overwrites := 0 }

/-- While the reset acts every receiver sends HOLD, and it ends the reset unlocked and DOWN, with no reception state, an
empty FIFO, GO, sequences and counters 0; no LINK-CHANGE is posted (R45). RESET_END changes nothing else; from any state
under reset it makes every receiver send GO. The attached sequence is the model's (log 16). -/
def Obligations.ResetEndSendsGo : Prop :=
  (∀ s : State, ∃ t u, exec .powerOnReset s = .next t ∧ (∀ l, (t.receivers.get l).flow = .hold) ∧
    exec .resetEnd t = .next u ∧
    (∀ l, u.receivers.get l =
      { decoder := .unlocked 0, reception := .off, fifo := [], flow := .go, receivedSeq := 0, attachedSeq := 0,
        lastGoodSeq := 0, primed := false, counters := ⟨0, 0, 0, 0, 0, 0, 0, 0, 0, 0, 0, 0⟩ }) ∧
    (∀ l, (u.receivers.get l).linkState = .down ∧ (u.slots.get l).enabled = false) ∧
    u.ports.pA.queue = [] ∧ u.ports.pB.queue = []) ∧
  ∀ s : State, s.resetActs = true → ∃ t, exec .resetEnd s = .next t ∧ t.resetActs = false ∧
    (∀ l, (t.receivers.get l).flow = .go ∧ (t.receivers.get l).fifo = (s.receivers.get l).fifo) ∧
    { t with receivers := s.receivers, resetActs := true } = s

/-- TIMEBASE_TICK: the timebase advances by 1, from its largest value to 0 (R3), and every running timer runs down a time
unit, holding at 0 (log 3, the model's choice); a timer that does not run stays stopped, a phase of the mirror link without
a timer stays as it is, and nothing else changes. -/
def Obligations.TimebaseTickAdvances : Prop :=
  ∀ s : State, ∃ t, exec .timebaseTick s = .next t ∧
    (s.manager.timebase ≠ 281474976710655 → t.manager.timebase.toNat = s.manager.timebase.toNat + 1) ∧
    (s.manager.timebase = 281474976710655 → t.manager.timebase = 0) ∧
    (s.manager.period = none → t.manager.period = none) ∧
    (∀ r, s.manager.period = some r → t.manager.period = some (if r = 0 then 0 else r - 1)) ∧
    (s.manager.deadline = none → t.manager.deadline = none) ∧
    (∀ r, s.manager.deadline = some r → t.manager.deadline = some (if r = 0 then 0 else r - 1)) ∧
    (s.manager.lineDelay = none → t.manager.lineDelay = none) ∧
    (∀ r, s.manager.lineDelay = some r → t.manager.lineDelay = some (if r = 0 then 0 else r - 1)) ∧
    (s.manager.fallback = none → t.manager.fallback = none) ∧
    (∀ r, s.manager.fallback = some r → t.manager.fallback = some (if r = 0 then 0 else r - 1)) ∧
    (s.line.measuring = none → t.line.measuring = none) ∧
    (∀ r, s.line.measuring = some r → t.line.measuring = some (if r = 0 then 0 else r - 1)) ∧
    (∀ w r, s.mirror.activity = .writing w (.waitReady r) →
      t.mirror.activity = .writing w (.waitReady (if r = 0 then 0 else r - 1))) ∧
    (∀ w r, s.mirror.activity = .writing w (.waitAck r) →
      t.mirror.activity = .writing w (.waitAck (if r = 0 then 0 else r - 1))) ∧
    (∀ w r, s.mirror.activity = .writing w (.gap r) →
      t.mirror.activity = .writing w (.gap (if r = 0 then 0 else r - 1))) ∧
    ((s.mirror.activity = .idle ∨ ∃ w, s.mirror.activity = .writing w .addressing ∨
        s.mirror.activity = .writing w .sending) → t.mirror.activity = s.mirror.activity) ∧
    { t with manager := s.manager, line := s.line, mirror := s.mirror } = s ∧
    { t.manager with timebase := s.manager.timebase, period := s.manager.period, deadline := s.manager.deadline,
                     lineDelay := s.manager.lineDelay, fallback := s.manager.fallback } = s.manager ∧
    { t.line with measuring := s.line.measuring } = s.line ∧
    { t.mirror with activity := s.mirror.activity } = s.mirror

/-! ## The timing line and triggers -/

/-- TIMING_LINE_CHANGE and LINE_FILTER_EXPIRY where no edge is passed: with the filter OFF a change of the raw level is a
change of the filtered level, with a filter it starts the filter's time, a return ends the measurement, and the filter's
expiry makes the filtered level the raw level; nothing else changes (R8). -/
def Obligations.TimingLineLevels : Prop :=
  ∀ s : State, s.resetActs = false → (s.manager.settings.mode ≠ .line ∨ s.manager.state = .idle) →
    (s.line.raw = s.line.filtered → s.manager.settings.filter = .off →
      exec .timingLineChange s =
        .next { s with line := { raw := !s.line.raw, filtered := !s.line.raw, measuring := none } }) ∧
    (s.line.raw = s.line.filtered → ∀ f ∈ [(LineFilter.f2, (2 : Word)), (.f10, 10), (.f50, 50), (.f200, 200)],
      s.manager.settings.filter = f.1 →
      exec .timingLineChange s =
        .next { s with line := { raw := !s.line.raw, filtered := s.line.filtered, measuring := some f.2 } }) ∧
    (s.line.raw ≠ s.line.filtered →
      exec .timingLineChange s =
        .next { s with line := { raw := !s.line.raw, filtered := s.line.filtered, measuring := none } }) ∧
    (s.line.measuring = some 0 →
      exec .lineFilterExpiry s =
        .next { s with line := { raw := s.line.raw, filtered := s.line.raw, measuring := none } })

/-- An edge of the selected polarity passed in LINE mode outside IDLE (R8, R9, R11), by a change of the raw level with the
filter OFF or by the filter's expiry: it counts a line overlap while the delay runs, starts the delay if that is not 0,
and with delay 0 is a trigger at once, which an open cycle latches or drops; an edge of the other polarity is ignored. -/
def Obligations.PassedEdgeStartsDelay : Prop :=
  ∀ (s : State) (c : Instr) (level : Bool), s.resetActs = false → s.manager.settings.mode = .line →
    s.manager.state ≠ .idle → s.line.filtered = !level →
    ((c = .timingLineChange ∧ s.manager.settings.filter = .off ∧ s.line.raw = !level) ∨
      (c = .lineFilterExpiry ∧ s.line.measuring = some 0 ∧ s.line.raw = level)) →
    ((s.manager.settings.edge = .rising ↔ level = true) →
      (s.manager.lineDelay = none → s.manager.settings.delay ≠ 0 →
        exec c s = .next { s with
          line := { raw := level, filtered := level, measuring := none }
          manager := { s.manager with lineDelay := some s.manager.settings.delay } }) ∧
      (s.manager.lineDelay = none → s.manager.settings.delay = 0 → s.cycleIsOpen = true →
        (s.manager.settings.queue = true → s.manager.latch = none →
          exec c s = .next { s with
            line := { raw := level, filtered := level, measuring := none }
            manager := { s.manager with latch := some .line } }) ∧
        ((s.manager.settings.queue = false ∨ s.manager.latch ≠ none) →
          exec c s = .next { s with
            line := { raw := level, filtered := level, measuring := none }
            manager := { s.manager with
              counters := { s.manager.counters with
                droppedTriggers := Counter.increase s.manager.counters.droppedTriggers } } })) ∧
      (∀ r, s.manager.lineDelay = some r →
        exec c s = .next { s with
          line := { raw := level, filtered := level, measuring := none }
          manager := { s.manager with
            counters := { s.manager.counters with
              lineOverlaps := Counter.increase s.manager.counters.lineOverlaps } } })) ∧
    ((s.manager.settings.edge = .falling ↔ level = true) →
      exec c s = .next { s with line := { raw := level, filtered := level, measuring := none } })

/-- A LINE or TIMER trigger in GATHERING or CLOSING is latched if queueing is ON and the latch is empty, and is otherwise
discarded and counted; a period expiry starts the next period (R10, R11). -/
def Obligations.TriggerWhileCycleOpen : Prop :=
  ∀ s : State, s.resetActs = false → s.cycleIsOpen = true →
    (s.manager.lineDelay = some 0 →
      (s.manager.settings.queue = true → s.manager.latch = none →
        exec .lineDelayExpiry s = .next { s with manager := { s.manager with lineDelay := none, latch := some .line } }) ∧
      ((s.manager.settings.queue = false ∨ s.manager.latch ≠ none) →
        exec .lineDelayExpiry s =
          .next { s with
            manager := { s.manager with
              lineDelay := none
              counters := { s.manager.counters with
                droppedTriggers := Counter.increase s.manager.counters.droppedTriggers } } })) ∧
    (s.manager.period = some 0 →
      (s.manager.settings.queue = true → s.manager.latch = none →
        exec .periodExpiry s =
          .next { s with
            manager := { s.manager with period := some s.manager.settings.period, latch := some .timer } }) ∧
      ((s.manager.settings.queue = false ∨ s.manager.latch ≠ none) →
        exec .periodExpiry s =
          .next { s with
            manager := { s.manager with
              period := some s.manager.settings.period
              counters := { s.manager.counters with
                droppedTriggers := Counter.increase s.manager.counters.droppedTriggers } } }))

/-- A LINE, TIMER, FALLBACK or LEAD trigger in ARMED opens a cycle (R6, R7, R9, R10, R13), where `u` is the part as the
command leaves it before the open: the cycle number advances, after the largest to 1; the open record holds the open fields
and every setting in force (R21); the cadence counts of the enabled slots advance; the residual buffer is cleared; with an
expected slot the deadline starts in GATHERING, where a slot that is not expected has no attach status, one without a frame
is WAITING, and the frame first in the FIFO of another attaches (R13, R15, R67); with none the cycle closes at once, each slot
selected NOT-EXPECTED or MUTED with its age as it is (R53, R57). A boundary that leaves the loop running, with no timing
settings held, enters ARMED (R12): a latched trigger opens a cycle with the late-start flag; else in LEAD mode a waiting lead
frame opens one, and without one the fallback starts (R7). -/
def Obligations.TriggerOpensCycle : Prop :=
  (∀ (s u : State) (c : Instr) (cause : OpenCause), s.resetActs = false → s.manager.state = .armed →
    ((c = .lineDelayExpiry ∧ cause = .line ∧ s.manager.lineDelay = some 0 ∧
        u = { s with manager := { s.manager with lineDelay := none } }) ∨
      (c = .timingLineChange ∧ cause = .line ∧ s.manager.settings.mode = .line ∧ s.manager.settings.filter = .off ∧
        s.manager.settings.delay = 0 ∧ s.manager.lineDelay = none ∧ s.line.raw = s.line.filtered ∧
        (s.manager.settings.edge = .rising ↔ s.line.raw = false) ∧
        u = { s with line := { raw := !s.line.raw, filtered := !s.line.raw, measuring := none } }) ∨
      (c = .lineFilterExpiry ∧ cause = .line ∧ s.manager.settings.mode = .line ∧ s.manager.settings.delay = 0 ∧
        s.manager.lineDelay = none ∧ s.line.measuring = some 0 ∧ s.line.filtered = !s.line.raw ∧
        (s.manager.settings.edge = .rising ↔ s.line.raw = true) ∧
        u = { s with line := { raw := s.line.raw, filtered := s.line.raw, measuring := none } }) ∨
      (c = .periodExpiry ∧ cause = .timer ∧ s.manager.period = some 0 ∧
        u = { s with manager := { s.manager with period := some s.manager.settings.period } }) ∨
      (c = .fallbackExpiry ∧ cause = .fallback ∧ s.manager.fallback = some 0 ∧
        u = { s with manager := { s.manager with counters := { s.manager.counters with
          fallbackOpens := Counter.increase s.manager.counters.fallbackOpens } } }) ∨
      (∃ l w window good f, c = .linkDataSymbol l w ∧ cause = .lead ∧ s.manager.settings.mode = .lead ∧
        s.manager.settings.leadSlot = l ∧ (s.slots.get l).enabled = true ∧ (s.slots.get l).muted = false ∧
        (s.receivers.get l).decoder = .locked window good ∧ (s.receivers.get l).reception = .header f ∧ f.taken = 2 ∧
        f.word0.extractLsb' 8 8 = 1 ∧ f.word0.extractLsb' 0 8 = f.tag ∧ w.toNat = f.slopeCount ∧
        (s.receivers.get l).fifo = [] ∧
        u = s.onReceiver l (fun r =>
          { r with
            decoder := .locked ((false :: window).take 16) good
            reception := .storing { f with taken := 3, crc := crcStep f.crc w, word2 := w }
            receivedSeq := f.sequence
            fifo := [{ sequence := f.sequence, attached := false, verified := false, groups := [], taken := 0 }] }))) →
    ∃ t o, exec c s = .next t ∧ t.manager.openRecord = some o ∧
      o.opened = { cycle := if s.manager.cycle = 4294967295 then 1 else s.manager.cycle + 1, cause := cause,
                   lateStart := false, time := s.manager.timebase, loop := s.loop.loop,
                   generation := s.stores.generation,
                   settings :=
                     { actuatorCount := s.command.actuatorCount
                       slots := s.slots.map (fun x =>
                         { enabled := x.enabled, tag := x.tag, slopeCount := x.slopeCount, policy := x.policy })
                       timing := s.manager.settings, probe := s.probe.mode, mirror := s.mirror.settings
                       capture := s.capture.settings, offload := s.offload.settings } } ∧
      t.manager = { u.manager with
        state := t.manager.state
        cycle := o.opened.cycle
        fallback := none
        deadline := t.manager.deadline
        openRecord := some o } ∧
      t.line = u.line ∧
      (∀ l, t.slots.get l = { s.slots.get l with
        cadence :=
          if (s.slots.get l).enabled then
            (if (s.slots.get l).cadence = 0 then (s.slots.get l).policy.divisor - 1 else (s.slots.get l).cadence - 1)
          else (s.slots.get l).cadence }) ∧
      (∀ j, t.engine.residuals.at j = 0) ∧
      ((∃ l, s.expects l) →
        t.manager.state = .gathering ∧ t.manager.deadline = some s.manager.settings.deadline ∧ o.closing = none ∧
          t.command = s.command ∧ t.probe = s.probe) ∧
      ((¬ ∃ l, s.expects l) →
        t.manager.state = .closing ∧ t.manager.deadline = none ∧ t.receivers = u.receivers ∧
          ∃ info, o.closing = some info ∧ info.cause = .complete ∧ info.time = s.manager.timebase ∧
            s.startsComputation t s.loop.loop info ∧
            ∀ l, info.ages.get l = (s.slots.get l).age ∧ info.sequences.get l = (u.receivers.get l).receivedSeq ∧
              info.selections.get l =
                (if (s.slots.get l).enabled = true ∧ (s.slots.get l).muted = true then .muted else .notExpected)) ∧
      (∀ l, ¬ s.expects l → o.statuses.get l = none) ∧
      (∀ l, s.expects l → (u.receivers.get l).fifo = [] →
        o.statuses.get l = some .waiting ∧ t.receivers.get l = u.receivers.get l) ∧
      (∀ l e rest, s.expects l → (u.receivers.get l).fifo = e :: rest → e.attached = false →
        o.statuses.get l = some (.attached e.verified false) ∧ (t.receivers.get l).attachedSeq = e.sequence ∧
          t.engine.records.get l = some { sequence := e.sequence, groups := (s.slots.get l).slopeCount / 32,
                                          done := 0, state := .accumulating } ∧
          ∀ a, (t.engine.fresh.get l).at a = 0) ∧
      t.engine.held = s.engine.held ∧ t.loop = s.loop ∧ t.stores = s.stores ∧ t.ports = s.ports ∧ t.mirror = s.mirror ∧
      t.capture = s.capture ∧ t.offload = s.offload ∧ t.command.u = s.command.u ∧ t.command.d = s.command.d) ∧
  ∀ (s : State) (w : WorkingSet) (o : OpenRecord) (info : CloseInfo), s.resetActs = false →
    s.command.working = some w → s.manager.openRecord = some o → o.closing = some info → s.loop.loop ≠ .idle →
    (s.loop.trip ≠ none ∨ ∀ r, s.loop.request = some r → r.target ≠ .stop) → s.manager.held = none →
    ∃ t, exec .closeComputationEnd s = .next t ∧
      (∀ c, s.manager.latch = some c →
        ∃ o', t.manager.openRecord = some o' ∧
          o'.opened = { cycle := if s.manager.cycle = 4294967295 then 1 else s.manager.cycle + 1,
                        cause := (match c with
                          | .line => .line
                          | .timer => .timer),
                        lateStart := true, time := s.manager.timebase, loop := t.loop.loop,
                        generation := t.stores.generation,
                        settings :=
                          { actuatorCount := t.command.actuatorCount
                            slots := t.slots.map (fun x =>
                              { enabled := x.enabled, tag := x.tag, slopeCount := x.slopeCount, policy := x.policy })
                            timing := t.manager.settings, probe := t.probe.mode, mirror := t.mirror.settings
                            capture := t.capture.settings, offload := t.offload.settings } } ∧
          t.manager.cycle = o'.opened.cycle ∧ (t.manager.state = .gathering ∨ t.manager.state = .closing) ∧
          t.manager.latch = none ∧
          t.manager.counters = { s.manager.counters with
            lateStarts := Counter.increase s.manager.counters.lateStarts }) ∧
      (s.manager.latch = none → s.manager.settings.mode = .lead →
        ((s.slots.get s.manager.settings.leadSlot).muted = false →
          (s.receivers.get s.manager.settings.leadSlot).fifo ≠ [] →
          ∃ o', t.manager.openRecord = some o' ∧ o'.opened.cause = .lead ∧ o'.opened.lateStart = false ∧
            o'.opened.time = s.manager.timebase ∧ t.manager.fallback = none ∧
            t.manager.counters = s.manager.counters ∧
            t.manager.cycle = if s.manager.cycle = 4294967295 then 1 else s.manager.cycle + 1) ∧
        ((s.slots.get s.manager.settings.leadSlot).muted = true ∨
            (s.receivers.get s.manager.settings.leadSlot).fifo = [] →
          t.manager = { s.manager with
            state := .armed
            openRecord := none
            lastRecord := t.manager.lastRecord
            fallback := if s.manager.settings.fallback = 0 then s.manager.fallback
              else some s.manager.settings.fallback })) ∧
      (s.manager.latch = none → s.manager.settings.mode ≠ .lead →
        t.manager = { s.manager with state := .armed, openRecord := none, lastRecord := t.manager.lastRecord })

/-- DEADLINE_EXPIRY in GATHERING closes the cycle with cause DEADLINE (R18, R19): the deadline stops, a deadline close is
counted, the close is stamped, ATTACHED slots become ABANDONED and the others keep their status, the close computation
starts on its working set (R85, R136, R137), and U, D, the stores and the last cycle record stay. The receiver of an
ATTACHED slot counts the abandonment, removes the frame's entry and receives a frame still in reception on in DISCARDING
(R39); the engine discards its fresh contribution and residuals and voids its operation in flight (R75). The receivers and
fresh contributions of the other slots stay. -/
def Obligations.DeadlineClosesCycle : Prop :=
  ∀ (s : State) (o : OpenRecord), s.resetActs = false → s.manager.state = .gathering → s.manager.openRecord = some o →
    s.manager.deadline = some 0 →
    ∃ t o' info, exec .deadlineExpiry s = .next t ∧ t.manager.state = .closing ∧ t.manager.deadline = none ∧
      t.manager.openRecord = some o' ∧ o'.opened = o.opened ∧ o'.closing = some info ∧ info.cause = .deadline ∧
      info.time = s.manager.timebase ∧ info.previous = s.mirror.latest ∧
      (∀ l, o'.statuses.get l =
        match o.statuses.get l with
        | some (.attached _ _) => some .abandoned
        | x => x) ∧
      t.manager.counters.deadlineCloses = Counter.increase s.manager.counters.deadlineCloses ∧
      s.startsComputation t o.opened.loop info ∧
      (∀ l v g, o.statuses.get l = some (.attached v g) →
        (∀ e rest, (s.receivers.get l).fifo = e :: rest → e.attached = true →
          t.receivers.get l = { s.receivers.get l with
            fifo := rest
            flow := if fifoGroups rest ≤ 32 then .go else (s.receivers.get l).flow
            reception :=
              if e.verified then (s.receivers.get l).reception
              else (match (s.receivers.get l).reception with
                | .storing f => .discarding { f with slopes := [] }
                | x => x)
            counters := { (s.receivers.get l).counters with
              deadline := Counter.increase (s.receivers.get l).counters.deadline } }) ∧
        ((∀ e rest, (s.receivers.get l).fifo = e :: rest → e.attached = false) →
          t.receivers.get l = { s.receivers.get l with
            counters := { (s.receivers.get l).counters with
              deadline := Counter.increase (s.receivers.get l).counters.deadline } }) ∧
        (∀ r, s.engine.records.get l = some r → r.state ≠ .discarded →
          (∀ a, (t.engine.fresh.get l).at a = 0) ∧
            (∀ j, slopeBase s.slots l ≤ j → j < slopeBase s.slots l + (s.slots.get l).slopeCount →
              t.engine.residuals.at j = 0) ∧
            ∀ x, s.engine.inFlight = some x → x.slot = l →
              t.engine.inFlight = some { x with isVoid := true })) ∧
      (∀ l, (∀ v g, o.statuses.get l ≠ some (.attached v g)) →
        t.receivers.get l = s.receivers.get l ∧ t.engine.fresh.get l = s.engine.fresh.get l ∧
          ∀ x, s.engine.inFlight = some x → x.slot = l → t.engine.inFlight = some x) ∧
      t.command.u = s.command.u ∧ t.command.d = s.command.d ∧ t.stores = s.stores ∧
      t.manager.lastRecord = s.manager.lastRecord ∧ t.manager.cycle = s.manager.cycle ∧ t.mirror = s.mirror ∧
      (∀ l, t.engine.records.get l = none)

/-- What a DEADLINE close does to one slot (R53 to R57, R78). An expected slot that has not arrived, whether WAITING, ATTACHED
or ABANDONED, has missed: unmuted it grows older, its age stopping at 16, is HOLDING and selected HELD or ZEROED by its late
policy within its hold limit, is LOST and ZEROED beyond it, with a SLOT-CHANGE, and stays LOST and ZEROED if it was LOST;
muted it keeps age and state and is selected MUTED. An arrived slot is FRESH with age 0 and ACTIVE unless muted, and its
fresh contribution becomes held. A slot that is not expected keeps age and state. A slot that enters LOST with loss action
TRIP in a CLOSED cycle requests a trip: the first such slot makes a pending trip and withdraws the pending request, each
further one adds a cause to the pending trip, up to 255 (R57, R124); without such a slot the loop stays. -/
def Obligations.SlotsAtDeadlineClose : Prop :=
  ∀ (s : State) (o : OpenRecord) (l : LinkId), s.resetActs = false → s.manager.state = .gathering →
    s.manager.openRecord = some o → s.manager.deadline = some 0 →
    ∃ t o' info, exec .deadlineExpiry s = .next t ∧ t.manager.openRecord = some o' ∧ o'.closing = some info ∧
      ((s.slots.get l).enabled = true →
        (∀ x, o.statuses.get l = some x → x ≠ .arrived →
          ((s.slots.get l).muted = false → (s.slots.get l).state = .active ∨ (s.slots.get l).state = .holding →
            (min ((s.slots.get l).age + 1) 16 ≤ (s.slots.get l).policy.holdLimit →
              t.slots.get l = { s.slots.get l with age := min ((s.slots.get l).age + 1) 16, state := .holding } ∧
                info.selections.get l = (if (s.slots.get l).policy.late = .hold then .held else .zeroed) ∧
                info.ages.get l = min ((s.slots.get l).age + 1) 16) ∧
            ((s.slots.get l).policy.holdLimit < min ((s.slots.get l).age + 1) 16 →
              t.slots.get l = { s.slots.get l with age := min ((s.slots.get l).age + 1) 16, state := .lost } ∧
                info.selections.get l = .zeroed ∧ info.ages.get l = min ((s.slots.get l).age + 1) 16 ∧
                (∀ q, (s.ports.get q).queue.length ≤ 12 →
                  { subject := .slotChange l .lost, cycle := s.manager.cycle, time := s.manager.timebase } ∈
                    (t.ports.get q).queue))) ∧
          ((s.slots.get l).muted = false → (s.slots.get l).state = .lost →
            t.slots.get l = { s.slots.get l with age := min ((s.slots.get l).age + 1) 16 } ∧
              info.selections.get l = .zeroed ∧ info.ages.get l = min ((s.slots.get l).age + 1) 16) ∧
          ((s.slots.get l).muted = true →
            t.slots.get l = s.slots.get l ∧ info.selections.get l = .muted ∧
              info.ages.get l = (s.slots.get l).age)) ∧
        (o.statuses.get l = some .arrived →
          t.slots.get l = { s.slots.get l with
            age := 0
            state := if (s.slots.get l).muted then (s.slots.get l).state else .active } ∧
            info.selections.get l = .fresh ∧ info.ages.get l = 0 ∧
            ((s.slots.get l).state = .lost → (s.slots.get l).muted = false →
              ∀ q, (s.ports.get q).queue.length ≤ 12 →
                { subject := .slotChange l .active, cycle := s.manager.cycle, time := s.manager.timebase } ∈
                  (t.ports.get q).queue)) ∧
        (o.statuses.get l = none →
          t.slots.get l = s.slots.get l ∧ info.ages.get l = (s.slots.get l).age ∧
            info.selections.get l = (if (s.slots.get l).muted then .muted else .notExpected))) ∧
      ((s.slots.get l).enabled = false →
        t.slots.get l = s.slots.get l ∧ info.ages.get l = (s.slots.get l).age ∧
          info.selections.get l = .notExpected) ∧
      info.sequences.get l = (if info.selections.get l = .fresh then (s.receivers.get l).attachedSeq
        else (s.receivers.get l).receivedSeq) ∧
      t.engine.held.get l =
        (if info.selections.get l = .fresh then s.engine.fresh.get l else s.engine.held.get l) ∧
      ∀ ks : List LinkId,
        ks = [(0 : LinkId), 1, 2, 3].filter (fun k => decide ((s.slots.get k).enabled = true ∧
          (s.slots.get k).muted = false ∧ (s.slots.get k).state ≠ .lost ∧ o.statuses.get k ≠ none ∧ o.statuses.get k ≠ some .arrived ∧
          (s.slots.get k).policy.holdLimit < min ((s.slots.get k).age + 1) 16 ∧
          (s.slots.get k).policy.lossAction = .trip)) →
        (o.opened.loop ≠ .closed ∨ ks = [] → t.loop = s.loop) ∧
        (o.opened.loop = .closed → ∀ k rest, ks = k :: rest →
          (s.loop.trip = none →
            t.loop = { s.loop with request := none, trip := some { cause := .slot k, additional := rest.length } } ∧
            ∀ r, s.loop.request = some r → (t.ports.get r.port).activity =
              .result { code := 0x30, cls := .withdrawn, reason := .tripped, data := [s.loop.loop.code] } 0) ∧
          ∀ d, s.loop.trip = some d → d.additional ≤ 255 →
            t.loop = { s.loop with trip := some { d with additional := min (d.additional + ks.length) 255 } })

/-! ## Sensor links -/

/-- Symbols taken while the decoder is unlocked (R26, R27, R29, R41): a valid symbol counts, the 64th in a row declares
lock and posts LINK-CHANGE, an invalid one sets the count to 0; nothing else changes. Posting an event (R180): each port
appends the record, with the cycle number and the timebase stamp, at the tail of a queue of fewer than 16, and with 16
discards it and counts it as lost, up to the largest count; nothing else changes. -/
def Obligations.UnlockedSymbolsCountToLock : Prop :=
  (∀ (s : State) (l : LinkId) (n : Nat) (w : Word), s.resetActs = false →
    (s.receivers.get l).decoder = .unlocked n →
    (∀ c ∈ [Instr.linkStartSymbol l, .linkDataSymbol l w, .linkEndSymbol l, .linkFillSymbol l],
      (n + 1 < 64 → exec c s = .next (s.onReceiver l (fun r => { r with decoder := .unlocked (n + 1) }))) ∧
      (64 ≤ n + 1 →
        exec c s = .next ((s.onReceiver l (fun r =>
          { r with decoder := .locked [] false, reception := .between, primed := false })).post
            (.linkChange l .locked)))) ∧
    exec (.linkInvalidSymbol l) s = .next (s.onReceiver l (fun r => { r with decoder := .unlocked 0 }))) ∧
  ∀ (s : State) (x : EventSubject),
    { s.post x with ports := s.ports } = s ∧
    ∀ q : PortId,
      ((s.ports.get q).queue.length < 16 →
        (s.post x).ports.get q = { s.ports.get q with
          queue := (s.ports.get q).queue ++
            [{ subject := x, cycle := s.manager.cycle, time := s.manager.timebase }] }) ∧
      (16 ≤ (s.ports.get q).queue.length →
        (s.post x).ports.get q = { s.ports.get q with
          lost := if (s.ports.get q).lost = 4294967295 then 4294967295 else (s.ports.get q).lost + 1 })

/-- Symbols taken while locked in BETWEEN or DRAINING (the first and third columns of R29, R30): START begins a frame,
in HEADER for an enabled slot and in DRAINING for a disabled one; END ends draining; every other symbol only enters the
window of the latest 16, an invalid one as an invalid mark while fewer than four are. -/
def Obligations.LockedSymbolsOutsideFrame : Prop :=
  ∀ (s : State) (l : LinkId) (w : Word) (window : List Bool) (good : Bool), s.resetActs = false →
    (s.receivers.get l).decoder = .locked window good →
    ((s.receivers.get l).reception = .between ∨ (s.receivers.get l).reception = .draining) →
    exec (.linkStartSymbol l) s = .next (s.onReceiver l (fun r =>
      { r with
        decoder := .locked ((false :: window).take 16) good
        reception :=
          if (s.slots.get l).enabled then
            .header { taken := 0, crc := 0xFFFF, word0 := 0, sequence := 0, word2 := 0, crcWord := 0, slopes := [],
                      tag := (s.slots.get l).tag, slopeCount := (s.slots.get l).slopeCount }
          else .draining })) ∧
    exec (.linkDataSymbol l w) s = .next (s.onReceiver l (fun r =>
      { r with decoder := .locked ((false :: window).take 16) good })) ∧
    exec (.linkEndSymbol l) s = .next (s.onReceiver l (fun r =>
      { r with decoder := .locked ((false :: window).take 16) good, reception := .between })) ∧
    exec (.linkFillSymbol l) s = .next (s.onReceiver l (fun r =>
      { r with decoder := .locked ((false :: window).take 16) good })) ∧
    (((true :: window).take 16).count true < 4 →
      exec (.linkInvalidSymbol l) s = .next (s.onReceiver l (fun r =>
        { r with decoder := .locked ((true :: window).take 16) good })))

/-- Symbols taken in HEADER (R28, R29, R30, R37): a data word before word 2 is the next header word and enters the CRC, FILL
is no word, and START, END and an invalid symbol at which lock is kept abandon the frame with cause FRAMING, which is counted
and does nothing else: START begins a new frame, in HEADER, or in DRAINING on a slot since disabled, END returns reception to
BETWEEN, and the rest after an invalid symbol is drained. -/
def Obligations.SymbolsInHeader : Prop :=
  ∀ (s : State) (l : LinkId) (w : Word) (window : List Bool) (good : Bool) (f : RxFrame), s.resetActs = false →
    (s.receivers.get l).decoder = .locked window good → (s.receivers.get l).reception = .header f →
    (f.taken < 2 →
      exec (.linkDataSymbol l w) s = .next (s.onReceiver l (fun r =>
        { r with
          decoder := .locked ((false :: window).take 16) good
          reception := .header (if f.taken = 0 then { f with taken := 1, crc := crcStep f.crc w, word0 := w }
                                else { f with taken := 2, crc := crcStep f.crc w, sequence := w }) }))) ∧
    exec (.linkFillSymbol l) s = .next (s.onReceiver l (fun r =>
      { r with decoder := .locked ((false :: window).take 16) good })) ∧
    exec (.linkEndSymbol l) s = .next (s.onReceiver l (fun r =>
      { r with
        decoder := .locked ((false :: window).take 16) good
        reception := .between
        counters := { r.counters with framing := Counter.increase r.counters.framing } })) ∧
    exec (.linkStartSymbol l) s = .next (s.onReceiver l (fun r =>
      { r with
        decoder := .locked ((false :: window).take 16) good
        reception :=
          if (s.slots.get l).enabled then
            .header { taken := 0, crc := 0xFFFF, word0 := 0, sequence := 0, word2 := 0, crcWord := 0, slopes := [],
                      tag := (s.slots.get l).tag, slopeCount := (s.slots.get l).slopeCount }
          else .draining
        counters := { r.counters with framing := Counter.increase r.counters.framing } })) ∧
    (((true :: window).take 16).count true < 4 →
      exec (.linkInvalidSymbol l) s = .next (s.onReceiver l (fun r =>
        { r with
          decoder := .locked ((true :: window).take 16) good
          reception := .draining
          counters := { r.counters with framing := Counter.increase r.counters.framing } })))

/-- Word 2 taken in HEADER (R31): the KIND, TAG and LENGTH checks in order, each failure counted and drained with no other
effect; an accepted NOTICE enters DISCARDING; an accepted DATA frame records its sequence, is dropped in IDLE, and in GATHERING
attaches to a WAITING slot (R15, R32, R67). Where it opens no cycle and cannot attach, it is queued or dropped by the
out-of-cycle policy (R32): in CLOSING, in ARMED outside LEAD mode, in LEAD mode with the lead slot muted or, for another
slot, without a frame, and in GATHERING behind an attached frame or, first in its FIFO, for a slot that is not WAITING. -/
def Obligations.HeaderChecks : Prop :=
  ∀ (s : State) (l : LinkId) (w : Word) (window : List Bool) (good : Bool) (f : RxFrame), s.resetActs = false →
    (s.receivers.get l).decoder = .locked window good → (s.receivers.get l).reception = .header f → f.taken = 2 →
    (f.word0.extractLsb' 8 8 ≠ 1 ∧ (f.word0.extractLsb' 8 8 ≠ 2 ∨ (w ≠ 1 ∧ w ≠ 2)) →
      exec (.linkDataSymbol l w) s = .next (s.onReceiver l (fun r =>
        { r with
          decoder := .locked ((false :: window).take 16) good
          reception := .draining
          counters := { r.counters with rejectedKind := Counter.increase r.counters.rejectedKind } }))) ∧
    ((f.word0.extractLsb' 8 8 = 1 ∨ (f.word0.extractLsb' 8 8 = 2 ∧ (w = 1 ∨ w = 2))) →
      (f.word0.extractLsb' 0 8 ≠ f.tag →
        exec (.linkDataSymbol l w) s = .next (s.onReceiver l (fun r =>
          { r with
            decoder := .locked ((false :: window).take 16) good
            reception := .draining
            counters := { r.counters with rejectedTag := Counter.increase r.counters.rejectedTag } }))) ∧
      (f.word0.extractLsb' 0 8 = f.tag → f.word0.extractLsb' 8 8 = 1 → w.toNat ≠ f.slopeCount →
        exec (.linkDataSymbol l w) s = .next (s.onReceiver l (fun r =>
          { r with
            decoder := .locked ((false :: window).take 16) good
            reception := .draining
            counters := { r.counters with rejectedLength := Counter.increase r.counters.rejectedLength } }))) ∧
      (f.word0.extractLsb' 0 8 = f.tag → f.word0.extractLsb' 8 8 = 2 →
        exec (.linkDataSymbol l w) s = .next (s.onReceiver l (fun r =>
          { r with
            decoder := .locked ((false :: window).take 16) good
            reception := .discarding { f with taken := 3, crc := crcStep f.crc w, word2 := w } }))) ∧
      (f.word0.extractLsb' 0 8 = f.tag → f.word0.extractLsb' 8 8 = 1 → w.toNat = f.slopeCount →
        (s.manager.state = .idle →
          exec (.linkDataSymbol l w) s = .next (s.onReceiver l (fun r =>
            { r with
              decoder := .locked ((false :: window).take 16) good
              reception := .discarding { f with taken := 3, crc := crcStep f.crc w, word2 := w }
              receivedSeq := f.sequence
              counters := { r.counters with dropped := Counter.increase r.counters.dropped } }))) ∧
        (s.manager.state = .closing ∨
            (s.manager.state = .armed ∧ (s.manager.settings.mode ≠ .lead ∨
              (s.slots.get s.manager.settings.leadSlot).muted = true ∨
              (s.manager.settings.leadSlot ≠ l ∧ (s.receivers.get s.manager.settings.leadSlot).fifo = []))) ∨
            (s.manager.state = .gathering ∧ ∃ e rest, (s.receivers.get l).fifo = e :: rest ∧ e.attached = true) ∨
            (s.manager.state = .gathering ∧ (s.receivers.get l).fifo = [] ∧
              ∃ o, s.manager.openRecord = some o ∧ o.statuses.get l ≠ some .waiting) →
          ((s.slots.get l).policy.outOfCycle = .queue →
            exec (.linkDataSymbol l w) s = .next (s.onReceiver l (fun r =>
              { r with
                decoder := .locked ((false :: window).take 16) good
                reception := .storing { f with taken := 3, crc := crcStep f.crc w, word2 := w }
                receivedSeq := f.sequence
                fifo := r.fifo ++
                  [{ sequence := f.sequence, attached := false, verified := false, groups := [], taken := 0 }] }))) ∧
          ((s.slots.get l).policy.outOfCycle = .drop →
            ((s.receivers.get l).flow = .hold → 32 < fifoGroups (s.receivers.get l).fifo) →
            exec (.linkDataSymbol l w) s = .next (s.onReceiver l (fun r =>
              { r with
                decoder := .locked ((false :: window).take 16) good
                reception := .discarding { f with taken := 3, crc := crcStep f.crc w, word2 := w }
                receivedSeq := f.sequence
                counters := { r.counters with dropped := Counter.increase r.counters.dropped } })))) ∧
        (∀ o, s.manager.state = .gathering → s.manager.openRecord = some o → o.statuses.get l = some .waiting →
          (s.receivers.get l).fifo = [] →
          ∃ t o', exec (.linkDataSymbol l w) s = .next t ∧
            (t.receivers.get l).reception = .storing { f with taken := 3, crc := crcStep f.crc w, word2 := w } ∧
            (t.receivers.get l).receivedSeq = f.sequence ∧ (t.receivers.get l).attachedSeq = f.sequence ∧
            (t.receivers.get l).fifo =
              [{ sequence := f.sequence, attached := true, verified := false, groups := [], taken := 0 }] ∧
            t.manager.openRecord = some o' ∧ o'.statuses.get l = some (.attached false false) ∧
            t.engine.records.get l = some { sequence := f.sequence, groups := (s.slots.get l).slopeCount / 32,
                                            done := 0, state := .accumulating } ∧
            (∀ a, (t.engine.fresh.get l).at a = 0) ∧ t.ports = s.ports ∧ t.slots = s.slots)))

/-- Symbols taken in STORING and DISCARDING that end nothing (R28, R29, R33, R34, R36). A slope word in STORING: inside a group
it is collected; with the 32nd the group joins the newest entry, and the return path goes to HOLD at 48 groups or more (stated
where the engine is busy, so that it takes nothing in the same event); with 64 groups already held the frame is abandoned with
cause OVERRUN, its groups and entry leave, and the rest is drained. A payload word in DISCARDING only enters the CRC. The
word before END is the CRC word: it is kept to be compared at END and does not enter the CRC. FILL is no word. The expected
word count is 3 + slope count + 1 for DATA, with the slope count of word 2, and 4 for NOTICE; the occupancy of a FIFO counts
the groups of all its entries (2.5); the CRC takes a word bit by bit, most significant first, with polynomial
x¹⁶ + x¹² + x⁵ + 1. -/
def Obligations.SlopesStoredInGroups : Prop :=
  (∀ f : RxFrame, (f.word0.extractLsb' 8 8 = 1 → f.expected = 3 + f.word2.toNat + 1) ∧
    (f.word0.extractLsb' 8 8 = 2 → f.expected = 4)) ∧
  (∀ es : List FifoEntry, fifoGroups es = (es.map (fun e => e.groups.length)).sum) ∧
  (∀ (s : State) (l : LinkId) (w : Word) (window : List Bool) (good : Bool) (f : RxFrame), s.resetActs = false →
    (s.receivers.get l).decoder = .locked window good →
    ((s.receivers.get l).reception = .storing f → f.taken + 1 < f.expected →
      (f.slopes.length + 1 < 32 →
        exec (.linkDataSymbol l w) s = .next (s.onReceiver l (fun r =>
          { r with
            decoder := .locked ((false :: window).take 16) good
            reception := .storing { f with taken := f.taken + 1, crc := crcStep f.crc w, slopes := f.slopes ++ [w] } }))) ∧
      (f.slopes.length + 1 = 32 → s.engine.inFlight ≠ none → ∀ front e, (s.receivers.get l).fifo = front ++ [e] →
        fifoGroups (s.receivers.get l).fifo < 64 →
        exec (.linkDataSymbol l w) s = .next (s.onReceiver l (fun r =>
          { r with
            decoder := .locked ((false :: window).take 16) good
            reception := .storing { f with taken := f.taken + 1, crc := crcStep f.crc w, slopes := [] }
            fifo := front ++ [{ e with groups := e.groups ++ [f.slopes ++ [w]] }]
            flow := if 48 ≤ fifoGroups (s.receivers.get l).fifo + 1 then .hold else r.flow }))) ∧
      (f.slopes.length + 1 = 32 → 64 ≤ fifoGroups (s.receivers.get l).fifo →
        s.abandonsStored (.linkDataSymbol l w) l (.locked ((false :: window).take 16) good) .draining
          (fun x => { x with overrun := Counter.increase x.overrun }))) ∧
    ((s.receivers.get l).reception = .discarding f → f.taken + 1 < f.expected →
      exec (.linkDataSymbol l w) s = .next (s.onReceiver l (fun r =>
        { r with
          decoder := .locked ((false :: window).take 16) good
          reception := .discarding { f with taken := f.taken + 1, crc := crcStep f.crc w } }))) ∧
    (f.taken + 1 = f.expected →
      ((s.receivers.get l).reception = .storing f →
        exec (.linkDataSymbol l w) s = .next (s.onReceiver l (fun r =>
          { r with
            decoder := .locked ((false :: window).take 16) good
            reception := .storing { f with taken := f.expected, crcWord := w } }))) ∧
      ((s.receivers.get l).reception = .discarding f →
        exec (.linkDataSymbol l w) s = .next (s.onReceiver l (fun r =>
          { r with
            decoder := .locked ((false :: window).take 16) good
            reception := .discarding { f with taken := f.expected, crcWord := w } })))) ∧
    ((s.receivers.get l).reception = .storing f ∨ (s.receivers.get l).reception = .discarding f →
      exec (.linkFillSymbol l) s = .next (s.onReceiver l (fun r =>
        { r with decoder := .locked ((false :: window).take 16) good })))) ∧
  ∀ x w : Word, crcStep x w = (List.range 16).foldl
    (fun (r : Word) i => if r.getMsbD 0 = w.getMsbD i then r <<< 1 else (r <<< 1) ^^^ 0x1021) x

/-- The group that completes while the engine is idle and is the only candidate is taken in the same event (R68 to R73):
the operation covers the slopes from base + 32 × group, its residuals are slope minus reference saturated, its sums are the
exact sums of residual times matrix word for every actuator below the count; the pointer passes the slot and the group
leaves the FIFO. -/
def Obligations.CompletedGroupIsTaken : Prop :=
  ∀ (s : State) (l : LinkId) (w : Word) (window : List Bool) (good : Bool) (f : RxFrame) (e : FifoEntry)
    (r : Attachment), s.resetActs = false → (s.receivers.get l).decoder = .locked window good →
    (s.receivers.get l).reception = .storing f → f.taken + 1 < f.expected → f.slopes.length + 1 = 32 →
    s.engine.inFlight = none → (s.receivers.get l).fifo = [e] → e.attached = true → e.verified = false → e.groups = [] →
    s.engine.records.get l = some r → r.state = .accumulating → (∀ k, k ≠ l → isCandidate s k = false) →
    ∃ t o, exec (.linkDataSymbol l w) s = .next t ∧ t.engine.inFlight = some o ∧ o.slot = l ∧ o.group = e.taken ∧
      o.isVoid = false ∧ o.firstIndex = slopeBase s.slots l + 32 * e.taken ∧ o.residuals.length = 32 ∧
      (∀ k, k < 32 → (o.residuals.getD k 0).toInt =
        max (-32768) (min (((f.slopes ++ [w]).getD k 0).toInt -
          (storeWord .refslopes s.stores.active.refslopes (o.firstIndex + k)).toInt) 32767)) ∧
      (∀ a, a < s.command.actuatorCount → (o.sums.at a).toInt =
        ((List.range 32).map (fun k => (o.residuals.getD k 0).toInt *
          (storeWord .matrix s.stores.active.matrix ((o.firstIndex + k) * 1024 + a)).toInt)).sum) ∧
      (∀ a, s.command.actuatorCount ≤ a → o.sums.at a = 0) ∧
      t.engine.pointer = l + 1 ∧ (t.receivers.get l).fifo = [{ e with taken := e.taken + 1 }] ∧
      t.engine.fresh = s.engine.fresh ∧ t.engine.held = s.engine.held ∧ t.engine.records = s.engine.records ∧
      t.engine.residuals = s.engine.residuals ∧ t.stores = s.stores ∧ t.manager = s.manager ∧ t.ports = s.ports

/-- The good END of a frame (R16, R27, R33, R35, R41, R42, R58, R59), where `u` is the part once the frame is counted, reception
is in BETWEEN, and a link that was LOCKED has gone UP with a LINK-CHANGE. A NOTICE is counted: INVALID mutes an enabled slot
that is not muted and posts SLOT-CHANGE; VALID unmutes a muted slot, which is LOST with its age above its hold limit, and in
ARMED a waiting lead frame then opens a cycle (R6); any other notice changes nothing. A DATA frame in DISCARDING is checked
for its sequence. So is one in STORING, whose entry is marked verified and leaves if it is attached and its groups are all
taken; an attached frame's verification is reported, with which its slot arrives if its last group is done, and the last
arrival closes the cycle with cause COMPLETE, its slots treated as `State.closesComplete` says (R19, R53, R54, R60, R85) and
the fresh contribution of its slot held (R78). -/
def Obligations.NoticesMuteAndUnmute : Prop :=
  ∀ (s v u : State) (l : LinkId) (window : List Bool) (good : Bool) (f : RxFrame), s.resetActs = false →
    (s.receivers.get l).decoder = .locked window good → f.taken = f.expected → f.crc = f.crcWord →
    v = s.onReceiver l (fun r =>
      { r with
        decoder := .locked ((false :: window).take 16) true
        reception := .between
        counters := { r.counters with good := Counter.increase r.counters.good } }) →
    u = (if good then v else v.post (.linkChange l .up)) →
    ((s.receivers.get l).reception = .discarding f → f.word0.extractLsb' 8 8 = 2 →
      ∀ n : State, n = u.onReceiver l (fun r =>
        { r with counters := { r.counters with notices := Counter.increase r.counters.notices } }) →
      (f.word2 = 2 →
        ((s.slots.get l).enabled = true → (s.slots.get l).muted = false →
          exec (.linkEndSymbol l) s = .next ((n.onSlot l (fun x => { x with muted := true, state := .muted })).post
            (.slotChange l .muted))) ∧
        ((s.slots.get l).enabled = false ∨ (s.slots.get l).muted = true → exec (.linkEndSymbol l) s = .next n)) ∧
      (f.word2 = 1 →
        ((s.slots.get l).muted = true →
          (s.manager.state ≠ .armed ∨ s.manager.settings.mode ≠ .lead ∨
              (s.receivers.get s.manager.settings.leadSlot).fifo = [] ∨
              (s.manager.settings.leadSlot ≠ l ∧ (s.slots.get s.manager.settings.leadSlot).muted = true) →
            exec (.linkEndSymbol l) s = .next ((n.onSlot l (fun x =>
              { x with muted := false, age := x.policy.holdLimit + 1, state := .lost })).post (.slotChange l .lost))) ∧
          (s.manager.state = .armed → s.manager.settings.mode = .lead → s.manager.settings.leadSlot = l →
            (s.receivers.get l).fifo ≠ [] →
            ∃ t o, exec (.linkEndSymbol l) s = .next t ∧ t.manager.openRecord = some o ∧ o.opened.cause = .lead ∧
              o.opened.lateStart = false ∧ o.opened.time = s.manager.timebase ∧ (t.slots.get l).muted = false ∧
              (t.slots.get l).state = .lost ∧ (t.slots.get l).age = (s.slots.get l).policy.holdLimit + 1)) ∧
        ((s.slots.get l).muted = false →
          (s.manager.state ≠ .armed ∨ s.manager.settings.mode ≠ .lead ∨
              (s.receivers.get s.manager.settings.leadSlot).fifo = [] ∨
              (s.slots.get s.manager.settings.leadSlot).muted = true) →
          exec (.linkEndSymbol l) s = .next n))) ∧
    ((s.receivers.get l).reception = .discarding f → f.word0.extractLsb' 8 8 = 1 →
      exec (.linkEndSymbol l) s = .next (u.onReceiver l (fun r =>
        { r with
          lastGoodSeq := f.sequence
          primed := true
          counters := { r.counters with
            sequenceBreaks := if r.primed = true ∧ f.sequence ≠ r.lastGoodSeq + 1 then
              Counter.increase r.counters.sequenceBreaks else r.counters.sequenceBreaks } }))) ∧
    ((s.receivers.get l).reception = .storing f →
      ∀ c : State, c = u.onReceiver l (fun r =>
        { r with
          lastGoodSeq := f.sequence
          primed := true
          counters := { r.counters with
            sequenceBreaks := if r.primed = true ∧ f.sequence ≠ r.lastGoodSeq + 1 then
              Counter.increase r.counters.sequenceBreaks else r.counters.sequenceBreaks } }) →
      (∀ front e, (s.receivers.get l).fifo = front ++ [e] → e.attached = false → s.settledAt l →
        exec (.linkEndSymbol l) s =
          .next (c.onReceiver l (fun r => { r with fifo := front ++ [{ e with verified := true }] }))) ∧
      (∀ e o x g, (s.receivers.get l).fifo = [e] → e.attached = true → s.manager.state = .gathering →
        s.manager.openRecord = some o → o.statuses.get l = some (.attached x g) →
        (s.engine.inFlight ≠ none ∨ ∀ k, isCandidate s k = false) →
        ∀ d : State, d = c.onReceiver l (fun r =>
          { r with fifo := if e.groups = [] then [] else [{ e with verified := true }] }) →
        (g = false →
          exec (.linkEndSymbol l) s = .next { d with manager := { d.manager with
            openRecord := some { o with statuses := o.statuses.set l (some (.attached true false)) } } }) ∧
        (g = true → (∃ k, k ≠ l ∧ o.statuses.get k ≠ none ∧ o.statuses.get k ≠ some .arrived) →
          exec (.linkEndSymbol l) s = .next { d with manager := { d.manager with
            openRecord := some { o with statuses := o.statuses.set l (some .arrived) } } }) ∧
        (g = true → (∀ k, k ≠ l → o.statuses.get k = none ∨ o.statuses.get k = some .arrived) →
          ∃ t, exec (.linkEndSymbol l) s = .next t ∧ d.closesComplete t o l ∧ t.engine.inFlight = s.engine.inFlight ∧
            t.engine.held.get l =
              (if (s.slots.get l).enabled then s.engine.fresh.get l else s.engine.held.get l))))

/-- A frame abandoned in STORING or DISCARDING (R35 to R38, R17, R75): at END with the expected word count and another CRC with
cause CRC; by END before that count, a data word after it, START, or an invalid symbol at which lock is kept with cause
FRAMING. Only that counter of its link changes, and reception goes on as the cause says. A frame in DISCARDING has no other
effect. A queued frame's entry leaves, and the flow symbol is re-evaluated. For an attached frame in GATHERING the slot
becomes ABANDONED, its fresh contribution and residuals are cleared, its record is DISCARDED and its operation in flight
void. -/
def Obligations.CrcMismatchAbandons : Prop :=
  ∀ (s : State) (l : LinkId) (w : Word) (window marks : List Bool) (good : Bool) (f : RxFrame) (c : Instr)
    (next : Reception) (count : ReceiverCounters → ReceiverCounters), s.resetActs = false →
    (s.receivers.get l).decoder = .locked window good →
    ((c = .linkEndSymbol l ∧ f.taken = f.expected ∧ f.crc ≠ f.crcWord ∧ next = .between ∧
        marks = (false :: window).take 16 ∧ count = fun x => { x with crc := Counter.increase x.crc }) ∨
      (count = (fun x => { x with framing := Counter.increase x.framing }) ∧
        ((c = .linkEndSymbol l ∧ f.taken ≠ f.expected ∧ next = .between ∧ marks = (false :: window).take 16) ∨
          (c = .linkDataSymbol l w ∧ f.taken = f.expected ∧ next = .draining ∧ marks = (false :: window).take 16) ∨
          (c = .linkStartSymbol l ∧ marks = (false :: window).take 16 ∧
            next = if (s.slots.get l).enabled then
                .header { taken := 0, crc := 0xFFFF, word0 := 0, sequence := 0, word2 := 0, crcWord := 0, slopes := [],
                          tag := (s.slots.get l).tag, slopeCount := (s.slots.get l).slopeCount }
              else .draining) ∨
          (c = .linkInvalidSymbol l ∧ ((true :: window).take 16).count true < 4 ∧ next = .draining ∧
            marks = (true :: window).take 16)))) →
    ((s.receivers.get l).reception = .discarding f →
      exec c s = .next (s.onReceiver l (fun r =>
        { r with decoder := .locked marks good, reception := next, counters := count r.counters }))) ∧
    ((s.receivers.get l).reception = .storing f → s.abandonsStored c l (.locked marks good) next count)

/-- The invalid symbol that makes the fourth of the latest 16 loses lock (R26, R27, R40): the decoder counts again from 0,
reception has no state and LINK-CHANGE DOWN is posted; a frame in HEADER, STORING or DISCARDING is counted as abandoned with
cause LOCK besides, and nothing else changes but for a frame in STORING: the entry of a queued one leaves, and for an
attached one in GATHERING the slot becomes ABANDONED and the engine discards (R38, R75). -/
def Obligations.FourthInvalidLosesLock : Prop :=
  ∀ (s : State) (l : LinkId) (window : List Bool) (good : Bool), s.resetActs = false →
    (s.receivers.get l).decoder = .locked window good → 4 ≤ ((true :: window).take 16).count true →
    (((s.receivers.get l).reception = .between ∨ (s.receivers.get l).reception = .draining) →
      exec (.linkInvalidSymbol l) s = .next ((s.onReceiver l (fun r =>
        { r with decoder := .unlocked 0, reception := .off })).post (.linkChange l .down))) ∧
    (∀ f, ((s.receivers.get l).reception = .header f ∨ (s.receivers.get l).reception = .discarding f) →
      exec (.linkInvalidSymbol l) s = .next ((s.onReceiver l (fun r =>
        { r with
          decoder := .unlocked 0
          reception := .off
          counters := { r.counters with lock := Counter.increase r.counters.lock } })).post (.linkChange l .down))) ∧
    (∀ f, (s.receivers.get l).reception = .storing f →
      (∀ front e, (s.receivers.get l).fifo = front ++ [e] → e.attached = false → s.settledAt l →
        exec (.linkInvalidSymbol l) s = .next ((s.onReceiver l (fun r =>
          { r with
            decoder := .unlocked 0
            reception := .off
            counters := { r.counters with lock := Counter.increase r.counters.lock }
            fifo := front
            flow := if fifoGroups front ≤ 32 then .go else r.flow })).post (.linkChange l .down))) ∧
      ∃ t, exec (.linkInvalidSymbol l) s = .next t ∧ (t.receivers.get l).reception = .off ∧
        (t.receivers.get l).decoder = .unlocked 0 ∧
        (t.receivers.get l).counters =
          { (s.receivers.get l).counters with lock := Counter.increase (s.receivers.get l).counters.lock } ∧
        (t.receivers.get l).lastGoodSeq = (s.receivers.get l).lastGoodSeq ∧
        ∀ front e o v g r, (s.receivers.get l).fifo = front ++ [e] → e.attached = true →
          s.manager.state = .gathering → s.manager.openRecord = some o → o.statuses.get l = some (.attached v g) →
          s.engine.records.get l = some r → r.state ≠ .discarded →
          t.ports = (s.post (.linkChange l .down)).ports ∧ (front = [] → (t.receivers.get l).fifo = []) ∧
            (∀ a, (t.engine.fresh.get l).at a = 0) ∧
            t.engine.records.get l = some { r with state := .discarded } ∧
            (∀ x, s.engine.inFlight = some x → x.slot = l → t.engine.inFlight = some { x with isVoid := true }) ∧
            ∃ o', t.manager.openRecord = some o' ∧ o'.statuses.get l = some .abandoned)

/-! ## Reconstruction and the close -/

/-- GROUP_OPERATION_END (R68 to R71, R74), where `u` is the part once the operation has ended: a void operation commits
nothing; another adds its sums to the fresh contribution, writes its residuals and counts its group, and its frame's last group
makes the record MULTIPLIED and the last-group report: with the frame not verified the report is noted, with it verified the
slot becomes ARRIVED, here with another expected slot outstanding, so that the cycle stays open (LastArrivalClosesCycle has the
other case), and a slot that is not ATTACHED ignores it (R16, R17). Then the engine makes its choice among the candidates: the
slots whose record is ACCUMULATING and whose head entry is attached and holds a group (R68, R70). The arrays are taken in the
canonical form that every step keeps (StepKeepsCanonicalMemory). -/
def Obligations.GroupOperationCommits : Prop :=
  (∀ (s : State) (l : LinkId), isCandidate s l = true ↔
    ∃ r e rest, s.engine.records.get l = some r ∧ r.state = .accumulating ∧
      (s.receivers.get l).fifo = e :: rest ∧ e.attached = true ∧ e.groups ≠ []) ∧
  ∀ (s : State) (o : Operation), s.resetActs = false → s.memoryWf = true → s.engine.inFlight = some o →
    (o.isVoid = true → ∃ t, exec .groupOperationEnd s = .next t ∧
      ({ s with engine := { s.engine with inFlight := none } } : State).engineChooses t) ∧
    (∀ (r : Attachment) (m : Manager) (x : RecordState), o.isVoid = false → s.engine.records.get o.slot = some r →
      ((r.done + 1 ≠ r.groups ∧ r.state = .accumulating ∧ x = .accumulating ∧ m = s.manager) ∨
        (r.done + 1 = r.groups ∧ x = .multiplied ∧ ∃ rec, s.manager.openRecord = some rec ∧
          ((∃ g, rec.statuses.get o.slot = some (.attached false g) ∧ s.manager.state = .gathering ∧
              m = { s.manager with
                openRecord := some { rec with statuses := rec.statuses.set o.slot (some (.attached false true)) } }) ∨
            (∃ g, rec.statuses.get o.slot = some (.attached true g) ∧ s.manager.state = .gathering ∧
              (∃ k, k ≠ o.slot ∧ rec.statuses.get k ≠ none ∧ rec.statuses.get k ≠ some .arrived) ∧
              m = { s.manager with
                openRecord := some { rec with statuses := rec.statuses.set o.slot (some .arrived) } }) ∨
            ((∀ v g, rec.statuses.get o.slot ≠ some (.attached v g)) ∧ m = s.manager)))) →
      ∃ u t : State, exec .groupOperationEnd s = .next t ∧ u.engineChooses t ∧ u.manager = m ∧
        u.engine.inFlight = none ∧ u.engine.pointer = s.engine.pointer ∧
        u.engine.records = s.engine.records.set o.slot (some { r with done := r.done + 1, state := x }) ∧
        (∀ a, a < 1024 → (u.engine.fresh.get o.slot).at a = (s.engine.fresh.get o.slot).at a + o.sums.at a) ∧
        (∀ k, k < o.residuals.length → u.engine.residuals.at (o.firstIndex + k) = o.residuals.getD k 0) ∧
        (∀ j, (j < o.firstIndex ∨ o.firstIndex + o.residuals.length ≤ j) →
          u.engine.residuals.at j = s.engine.residuals.at j) ∧
        (∀ l, l ≠ o.slot → u.engine.fresh.get l = s.engine.fresh.get l) ∧
        u.engine.held = s.engine.held ∧ { u with engine := s.engine, manager := s.manager } = s)

/-- The last-group report is the second report of the last expected slot (R16, R74): the slot becomes ARRIVED and the
cycle closes at once with cause COMPLETE, as `State.closesComplete` says (R19): the slots that have arrived are FRESH with age
0, and ACTIVE unless muted, with a SLOT-CHANGE where a slot was LOST (R54, R60); the others keep age and state and are
NOT-EXPECTED or MUTED (R53); the close computation starts on its working set (R85, R136, R137). The fresh contribution with
the last group's sums becomes held (R78). -/
def Obligations.LastArrivalClosesCycle : Prop :=
  ∀ (s : State) (o : Operation) (r : Attachment) (rec : OpenRecord) (g : Bool), s.resetActs = false →
    s.engine.inFlight = some o → o.isVoid = false → s.engine.records.get o.slot = some r → r.done + 1 = r.groups →
    s.manager.state = .gathering → s.manager.openRecord = some rec →
    rec.statuses.get o.slot = some (.attached true g) →
    (∀ l, l ≠ o.slot → rec.statuses.get l = none ∨ rec.statuses.get l = some .arrived) →
    ∃ t, exec .groupOperationEnd s = .next t ∧ s.closesComplete t rec o.slot ∧ t.engine.inFlight = none ∧
      ((s.slots.get o.slot).enabled = true → ∀ a, a < 1024 →
        (t.engine.held.get o.slot).at a = (s.engine.fresh.get o.slot).at a + o.sums.at a) ∧
      ((s.slots.get o.slot).enabled = false → t.engine.held.get o.slot = s.engine.held.get o.slot)

/-- CLOSE_COMPUTATION_END commits the close (R86, R20): D takes the results, U too unless a pending OPEN clears it, the
open record becomes the last cycle record with the three counts, and the drive vector is handed to the mirror link, which
starts its writeout, keeps it pending, or replaces a pending vector, which is reported SKIPPED and counted (R144). The
offload unit adds the projections of the enabled modes and latches a complete window with OFFLOAD-READY (R195, R196); the
capture unit decides by its pattern, offers the record whole to the telemetry FIFO, and advances its position (R188 to
R191). At the boundary the held SET values of every block come into force and are absent (R20, R50, R132, R143, R177, R188,
R194), with the effects of a new trigger mode on timers and latch (R5). Words 1 to 23 of the record's header are laid out as
13.6 says. -/
def Obligations.CloseComputationCommits : Prop :=
  ∀ (s : State) (w : WorkingSet) (o : OpenRecord) (info : CloseInfo) (rec : CycleRecord), s.resetActs = false →
    s.command.working = some w → s.manager.openRecord = some o → o.closing = some info →
    rec = { opened := o.opened, close := info, counts := (closeResult w).counts } →
    ∃ t, exec .closeComputationEnd s = .next t ∧ t.command.d = (closeResult w).d ∧
      ((s.loop.trip ≠ none ∨ ∀ r, s.loop.request = some r → r.target ≠ .opn) → t.command.u = (closeResult w).u) ∧
      (s.loop.trip = none → ∀ p, s.loop.request = some { target := .opn, port := p } →
        ∀ a, t.command.u.at a = 0) ∧
      t.manager.lastRecord = some rec ∧
      ((∀ p, info.probePosition = some p → p < 8) → (∀ l, info.ages.get l ≤ 16) → rec.laidOut rec.words) ∧
      t.command.actuatorCount = s.command.actuatorCount ∧
      (s.mirror.activity = .idle →
        t.mirror.activity =
          .writing { vector := { values := (closeResult w).d, cycle := o.opened.cycle, count := w.count }, board := 0,
                     extensions := 0, outcomes := Octet.fill .notWritten } .addressing ∧
        t.mirror.line = [.address, .word 0]) ∧
      (s.mirror.activity ≠ .idle →
        t.mirror.activity = s.mirror.activity ∧
        t.mirror.pendingVector =
          some { values := (closeResult w).d, cycle := o.opened.cycle, count := w.count } ∧
        (s.mirror.pendingVector = none → t.mirror.counters = s.mirror.counters ∧ t.mirror.latest = s.mirror.latest) ∧
        (∀ v, s.mirror.pendingVector = some v →
          t.mirror.counters.skipped = Counter.increase s.mirror.counters.skipped ∧
          t.mirror.latest = some { cycle := v.cycle, outcomes := Octet.fill .notWritten, skipped := true })) ∧
      (∀ x : OffloadUnit,
        ((s.offload.settings.window = 0 ∧ x = s.offload) ∨
          (s.offload.settings.window ≠ 0 ∧ ∃ sums : Quad (BitVec 64), (∀ m : LinkId, sums.get m =
              if s.offload.settings.mask.getLsbD m.val then
                s.offload.accumulators.get m + BitVec.ofInt 64 (((List.range s.command.actuatorCount).map (fun a =>
                  (storeWord .offloadvec s.stores.active.offloadvec (m.val * 1024 + a)).toInt *
                    ((closeResult w).d.at a).toInt)).sum)
              else s.offload.accumulators.get m) ∧
            ((s.offload.count + 1 < s.offload.settings.window ∧
                x = { s.offload with accumulators := sums, count := s.offload.count + 1 }) ∨
              (s.offload.settings.window ≤ s.offload.count + 1 ∧ ∃ values : Quad (BitVec 32),
                (∀ m : LinkId, values.get m =
                  if s.offload.settings.mask.getLsbD m.val then
                    BitVec.ofInt 32 (max (-2147483648) (min 2147483647
                      (((sums.get m).toInt + s.offload.settings.window * 16384) /
                        (s.offload.settings.window * 32768))))
                  else 0) ∧
                x = { s.offload with
                  overwrites := if s.offload.fresh then Counter.increase s.offload.overwrites else s.offload.overwrites
                  mailbox := some { cycle := o.opened.cycle, window := s.offload.settings.window,
                                    mask := s.offload.settings.mask, values := values }
                  fresh := true
                  count := 0
                  accumulators := ⟨0, 0, 0, 0⟩ })))) →
        t.offload = match s.offload.held with
          | none => x
          | some y => { x with settings := y, held := none, count := 0, accumulators := ⟨0, 0, 0, 0⟩ }) ∧
      (s.offload.settings.window ≠ 0 → s.offload.settings.window ≤ s.offload.count + 1 →
        ∀ q, (s.ports.get q).queue.length < 16 →
          { subject := .offloadReady o.opened.cycle s.offload.settings.window, cycle := s.manager.cycle,
            time := s.manager.timebase } ∈ (t.ports.get q).queue) ∧
      (∀ (x : CaptureUnit) (period next : Nat) (captured : Prop) (body record : List Word),
        ((s.capture.settings.pattern = .off ∧ period = 1 ∧ captured = False) ∨
          (∃ n, s.capture.settings.pattern = .every n ∧ period = n ∧ captured = (s.capture.position = 0)) ∨
          (∃ m n, s.capture.settings.pattern = .burst m n ∧ period = n ∧ captured = (s.capture.position < m)) ∨
          (∃ n bits, s.capture.settings.pattern = .mask n bits ∧ period = n ∧
            captured = (bits.getLsbD s.capture.position = true))) →
        next = (if s.capture.position + 1 < period then s.capture.position + 1 else 0) →
        body = (if s.capture.settings.drive then (List.range s.command.actuatorCount).map (closeResult w).d.at else []) ++
          (if s.capture.settings.residual then (List.range ((links.filter (fun l => (s.slots.get l).enabled)).map
            (fun l => (s.slots.get l).slopeCount)).sum).map s.engine.residuals.at else []) →
        record = (BitVec.ofNat 16 (24 + body.length) ||| (if s.capture.settings.drive then 0x4000 else 0) |||
            (if s.capture.settings.residual then 0x8000 else 0)) :: (rec.words ++ body) →
        ((captured ∧ (s.capture.fifo.map List.length).sum + record.length ≤ 65536 ∧
            x = { s.capture with fifo := s.capture.fifo ++ [record], position := next }) ∨
          (captured ∧ 65536 < (s.capture.fifo.map List.length).sum + record.length ∧
            x = { s.capture with drops := Counter.increase s.capture.drops, position := next }) ∨
          (¬captured ∧ x = { s.capture with position := next })) →
        t.capture = match s.capture.held with
          | none => x
          | some y => { x with settings := y, held := none, position := 0 }) ∧
      (∀ l, (t.slots.get l).policy = (s.slots.get l).heldPolicy.getD (s.slots.get l).policy ∧
        (t.slots.get l).heldPolicy = none ∧
        (t.manager.openRecord = none → (t.slots.get l).cadence =
          match (s.slots.get l).heldPolicy with
          | none => (s.slots.get l).cadence
          | some y =>
            if y.divisor = (s.slots.get l).policy.divisor ∧ y.phase = (s.slots.get l).policy.phase then
              (s.slots.get l).cadence
            else y.phase)) ∧
      t.probe.mode = s.probe.held.getD s.probe.mode ∧ t.probe.held = none ∧
      (t.manager.openRecord = none → t.probe.position = if s.probe.held = none then s.probe.position else 0) ∧
      t.mirror.settings = s.mirror.held.getD s.mirror.settings ∧ t.mirror.held = none ∧
      t.manager.settings = s.manager.held.getD s.manager.settings ∧ t.manager.held = none ∧
      (∀ x, s.manager.state = .closing → s.manager.held = some x → x.mode ≠ s.manager.settings.mode →
        s.line.measuring = none → s.loop.loop ≠ .idle →
        (s.loop.trip ≠ none ∨ ∀ r, s.loop.request = some r → r.target ≠ .stop) →
        t.manager.latch = none ∧
        t.manager.counters = { s.manager.counters with
          droppedTriggers := if s.manager.latch = none then s.manager.counters.droppedTriggers
            else Counter.increase s.manager.counters.droppedTriggers } ∧
        t.manager.lineDelay = (if s.manager.settings.mode = .line then none else s.manager.lineDelay) ∧
        t.manager.period = (if x.mode = .timer then some x.period
          else if s.manager.settings.mode = .timer then none else s.manager.period) ∧
        (s.manager.settings.mode = .lead → t.manager.fallback = none))

/-- The boundary takes a pending trip, or else a pending request (R117, R119, R121, R122, R126): the loop state, the last
trip record, the request's result, and IDLE for STOP, ARMED or a next cycle otherwise. The LOOP-CHANGE of a trip, with its
cause and additional-cause count, or of a request, with its port, is posted to both queues (R127), after the OFFLOAD-READY of
a window that this close completes (R196; the order within the event is log 11, the model's choice), and no other event is. -/
def Obligations.BoundaryTakesTripOrRequest : Prop :=
  ∀ (s : State) (w : WorkingSet) (o : OpenRecord) (info : CloseInfo) (posts : State → List EventSubject → Prop),
    s.resetActs = false →
    posts = (fun t xs => ∀ q, ∀ ready : List EventSubject,
      ready = (if s.offload.settings.window ≠ 0 ∧ s.offload.settings.window ≤ s.offload.count + 1 then
        [.offloadReady o.opened.cycle s.offload.settings.window] else []) →
      (t.ports.get q).queue = (((ready ++ xs).foldl (fun u x => u.post x) s).ports.get q).queue ∧
        (t.ports.get q).lost = (((ready ++ xs).foldl (fun u x => u.post x) s).ports.get q).lost) →
    s.command.working = some w → s.manager.openRecord = some o → o.closing = some info → s.loop.loop ≠ .idle →
    ∃ t, exec .closeComputationEnd s = .next t ∧
      (∀ c, s.loop.trip = some c → s.loop.loop = .closed →
        t.loop = { s.loop with
          loop := .frozen
          trip := none
          lastTrip := some { cause := c.cause, additional := c.additional, cycle := s.manager.cycle,
                             time := s.manager.timebase, before := .closed } } ∧
        t.manager.state ≠ .idle ∧ posts t [.loopChange .closed .frozen (.trip c.cause c.additional)]) ∧
      (∀ tg p, s.loop.trip = none → s.loop.request = some { target := tg, port := p } →
        t.loop = { s.loop with
          loop := (match tg with
            | .close => .closed
            | .freeze => .frozen
            | .opn => .opened
            | .stop => .idle)
          request := none } ∧
        (t.ports.get p).activity =
          .result { code := 0x30, cls := .complete, reason := .none,
                    data := [s.loop.loop.code, t.loop.loop.code] ++ bytes32 s.manager.cycle } 0 ∧
        (t.manager.state = .idle ↔ tg = .stop) ∧
        (tg = .stop → ∀ l, (t.receivers.get l).fifo = [] ∧ (t.receivers.get l).flow = .go) ∧
        posts t [.loopChange s.loop.loop t.loop.loop (.request p)]) ∧
      (s.loop.trip = none → s.loop.request = none → t.loop = s.loop ∧ t.manager.state ≠ .idle ∧ posts t [])

/-- The boundary takes a pending APPLY (R165, R166): the two copies of every selected store are swapped, the others keep
both, the generation increases by 1, and the command completes with the set and the new generation. -/
def Obligations.BoundaryTakesApply : Prop :=
  ∀ (s : State) (w : WorkingSet) (o : OpenRecord) (info : CloseInfo) (a : PendingApply), s.resetActs = false →
    s.command.working = some w → s.manager.openRecord = some o → o.closing = some info →
    s.stores.pendingApply = some a →
    ∃ t, exec .closeComputationEnd s = .next t ∧ t.stores.pendingApply = none ∧
      t.stores.generation = s.stores.generation + 1 ∧ t.stores.load = s.stores.load ∧
      (∀ id : StoreId, a.selection.getLsbD id.number = true →
        t.stores.active.get id = s.stores.shadow.get id ∧ t.stores.shadow.get id = s.stores.active.get id) ∧
      (∀ id : StoreId, a.selection.getLsbD id.number = false →
        t.stores.active.get id = s.stores.active.get id ∧ t.stores.shadow.get id = s.stores.shadow.get id) ∧
      ((∀ r, s.loop.request = some r → r.port ≠ a.port) →
        (t.ports.get a.port).activity =
          .result { code := 0x22, cls := .complete, reason := .none,
                    data := bytes16 (a.selection.setWidth 16) ++ bytes16 (s.stores.generation + 1) } 0)

/-- The final drive of every actuator below the count is the clamp of the value that the neighbour pass over the entries in
effect, in list order, leaves from the clamped rounded drives; it lies within its limits, or is LO where LO is above HI; the
limited count counts the actuators whose final drive differs from the rounded one (R99), the adjustment count the entries
that the pass adjusted (R108, R111), and the residual the entries over their limit in the final drives; at and above the
count D and U are 0 (R86, R94 to R96, R110). -/
def Obligations.FinalDriveWithinLimits : Prop :=
  ∀ (w : WorkingSet) (a : Nat) (es : List NeighbourEntry),
    es = (((List.range (min (storeWord .neighbours w.neighbours 0).toNat 2048)).map (fun k =>
        { first := (storeWord .neighbours w.neighbours (3 * k + 1)).toNat,
          second := (storeWord .neighbours w.neighbours (3 * k + 2)).toNat,
          limit := (storeWord .neighbours w.neighbours (3 * k + 3)).toNat })).filter
      (fun e => decide (e.first ≠ e.second ∧ e.first < w.count ∧ e.second < w.count))) →
    (closeResult w).counts.limited =
      (List.range w.count).countP (fun b => decide (((closeResult w).d.at b).toInt ≠ rounded w b)) ∧
    (closeResult w).counts.limited ≤ w.count ∧
    (closeResult w).counts.adjustments = (es.foldl passEntry ((List.range w.count).map (fun b =>
        max (storeWord .limits w.limits (2 * b)).toInt
          (min (rounded w b) (storeWord .limits w.limits (2 * b + 1)).toInt)), 0)).2 ∧
    (closeResult w).counts.adjustments ≤ es.length ∧ es.length ≤ 2048 ∧
    (closeResult w).counts.residual = es.countP (fun e =>
      decide (e.limit < (((closeResult w).d.at e.first).toInt - ((closeResult w).d.at e.second).toInt).natAbs)) ∧
    (a < w.count →
      ((closeResult w).d.at a).toInt =
        max (storeWord .limits w.limits (2 * a)).toInt
          (min ((es.foldl passEntry ((List.range w.count).map (fun b =>
              max (storeWord .limits w.limits (2 * b)).toInt
                (min (rounded w b) (storeWord .limits w.limits (2 * b + 1)).toInt)), 0)).1.getD a 0)
            (storeWord .limits w.limits (2 * a + 1)).toInt) ∧
      ((storeWord .limits w.limits (2 * a)).toInt ≤ (storeWord .limits w.limits (2 * a + 1)).toInt →
        (storeWord .limits w.limits (2 * a)).toInt ≤ ((closeResult w).d.at a).toInt ∧
          ((closeResult w).d.at a).toInt ≤ (storeWord .limits w.limits (2 * a + 1)).toInt) ∧
      ((storeWord .limits w.limits (2 * a + 1)).toInt < (storeWord .limits w.limits (2 * a)).toInt →
        ((closeResult w).d.at a).toInt = (storeWord .limits w.limits (2 * a)).toInt)) ∧
    (w.count ≤ a → (closeResult w).d.at a = 0 ∧ (closeResult w).u.at a = 0)

/-- The stages of a close with an empty neighbour list (R87 to R96, R100): the error sum over the slots selected FRESH or
HELD, the increment and the leak of the actuator's gain group, the candidate by the loop state, the rounded position with
offset and probe term, and the clamp, all exact. -/
def Obligations.CloseStagesWithoutNeighbours : Prop :=
  ∀ (w : WorkingSet) (a g : Nat) (errors : Int), a < w.count → storeWord .neighbours w.neighbours 0 = 0 →
    g = min (storeWord .groupmap w.groupmap a).toNat 7 →
    errors = (links.map (fun l =>
      if w.selections.get l = .fresh ∨ w.selections.get l = .held then ((w.contributions.get l).at a).toInt else 0)).sum →
    ∀ v : Int,
      ((w.loop = .closed ∧
          v = (((storeWord .gains w.gains (2 * g + 1)).toNat + 1) * (w.u.at a).toInt + 32768) / 65536 +
            ((storeWord .gains w.gains (2 * g)).toNat * errors + 16384) / 32768) ∨
        (w.loop = .frozen ∧ v = (w.u.at a).toInt) ∨ (w.loop = .opened ∧ v = 0)) →
      ((closeResult w).d.at a).toInt =
        max (storeWord .limits w.limits (2 * a)).toInt
          (min ((v + ((storeWord .offsets w.offsets a).toInt + (w.probe.at a).toInt) * 65536 + 32768) / 65536)
            (storeWord .limits w.limits (2 * a + 1)).toInt) ∧
      (closeResult w).counts.adjustments = 0 ∧ (closeResult w).counts.residual = 0

/-- In a close made CLOSED the candidate is the sum of leak and increment with all their fraction bits (R89 to R91),
made FROZEN it is the integrator held; the rounded drive is the candidate with offset and probe term, rounded. The new
integrator is the candidate where the final drive is the rounded drive, and the anti-windup value where it is not; its
magnitude is below 2³³, and with the close's offset and probe term it rounds to the final drive, for every actuator
below the count (R97). In an OPEN close the rounded drive is the offset and probe term, and every entry of U is 0 after
it (R98). -/
def Obligations.IntegratorReproducesDrive : Prop :=
  ∀ (w : WorkingSet) (a g : Nat) (errors v bias : Int), a < w.count →
    g = min (storeWord .groupmap w.groupmap a).toNat 7 →
    errors = ([(0 : LinkId), 1, 2, 3].map (fun l =>
      if w.selections.get l = .fresh ∨ w.selections.get l = .held then ((w.contributions.get l).at a).toInt else 0)).sum →
    bias = (storeWord .offsets w.offsets a).toInt + (w.probe.at a).toInt →
    ((w.loop = .closed ∧
          v = (((storeWord .gains w.gains (2 * g + 1)).toNat + 1) * (w.u.at a).toInt + 32768) / 65536 +
            ((storeWord .gains w.gains (2 * g)).toNat * errors + 16384) / 32768) ∨
        (w.loop = .frozen ∧ v = (w.u.at a).toInt) →
      rounded w a = (v + bias * 65536 + 32768) / 65536 ∧
      ((closeResult w).u.at a).toInt =
        (if ((closeResult w).d.at a).toInt = (v + bias * 65536 + 32768) / 65536 then v
         else (((closeResult w).d.at a).toInt - bias) * 65536) ∧
      ((closeResult w).u.at a).toInt.natAbs < 8589934592 ∧
      (((closeResult w).u.at a).toInt + bias * 65536 + 32768) / 65536 = ((closeResult w).d.at a).toInt) ∧
    (w.loop = .opened → rounded w a = bias ∧ (closeResult w).u.at a = 0)

/-- An entry of the neighbour pass (R107, R108): within its limit it changes nothing; over it, the higher value decreases
by ceil(e/2), the lower increases by floor(e/2), their difference is the limit, the others stay and the adjustment
counts. -/
def Obligations.NeighbourEntrySplitsExcess : Prop :=
  ∀ (v : List Int) (n hi lo limit : Nat), hi < v.length → lo < v.length → v.getD lo 0 ≤ v.getD hi 0 →
    ∀ e ∈ [(⟨hi, lo, limit⟩ : NeighbourEntry), ⟨lo, hi, limit⟩],
      (v.getD hi 0 - v.getD lo 0 ≤ limit → passEntry (v, n) e = (v, n)) ∧
      (limit < v.getD hi 0 - v.getD lo 0 → ∃ v', passEntry (v, n) e = (v', n + 1) ∧ v'.length = v.length ∧
        v'.getD hi 0 = v.getD hi 0 - (v.getD hi 0 - v.getD lo 0 - limit + 1) / 2 ∧
        v'.getD lo 0 = v.getD lo 0 + (v.getD hi 0 - v.getD lo 0 - limit) / 2 ∧
        v'.getD hi 0 - v'.getD lo 0 = limit ∧
        ∀ k, k ≠ hi → k ≠ lo → v'.getD k 0 = v.getD k 0)

/-! ## The mirror drive link -/

/-- The phases of a writeout that end without an outcome (R145 to R148, R150): each command in its phase makes exactly its
effect, and READY and BUSY outside WAIT-READY, ACK and NAK outside WAIT-ACK, and an 8th BUSY, are ignored (R146, R149). The
block is COMMAND, the WRITE word 0001h, the low cycle word, the board's 128 drive words, the CRC word over these and END
(R148, 13.3). -/
def Obligations.WriteoutPhases : Prop :=
  ∀ (s : State) (w : Writeout), s.resetActs = false →
    (s.mirror.activity = .writing w .addressing →
      exec .addressSent s = .next { s with
        mirror := { s.mirror with activity := .writing w (.waitReady s.mirror.settings.readyTimeout), line := [] } }) ∧
    (∀ r, s.mirror.activity = .writing w (.waitReady r) →
      (∀ ws : List Word, ws = [0x0001, w.vector.cycle.extractLsb' 0 16] ++
          (List.range 128).map (fun i => w.vector.values.at (128 * w.board.val + i)) →
        exec .boardReady s = .next { s with
          mirror := { s.mirror with
            activity := .writing w .sending
            line := [.command] ++ ws.map .word ++ [.word (ws.foldl crcStep 0xFFFF), .fin] } }) ∧
      (w.extensions < 7 →
        exec .boardBusy s = .next { s with
          mirror := { s.mirror with
            activity := .writing { w with extensions := w.extensions + 1 }
              (.waitReady s.mirror.settings.readyTimeout) } }) ∧
      (7 ≤ w.extensions → exec .boardBusy s = .next s)) ∧
    (s.mirror.activity = .writing w .sending →
      exec .blockSent s = .next { s with
        mirror := { s.mirror with activity := .writing w (.waitAck s.mirror.settings.ackTimeout), line := [] } }) ∧
    (s.mirror.activity = .writing w (.gap 0) →
      (w.board.val + 1 < w.vector.count / 128 →
        exec .gapEnd s = .next { s with
          mirror := { s.mirror with
            activity := .writing { w with board := w.board + 1, extensions := 0 } .addressing
            line := [.address, .word (BitVec.ofNat 16 (w.board + 1).val)] } }) ∧
      (w.vector.count / 128 ≤ w.board.val + 1 → s.mirror.pendingVector = none →
        exec .gapEnd s = .next { s with
          mirror := { s.mirror with
            activity := .idle
            line := []
            latest := some { cycle := w.vector.cycle, outcomes := w.outcomes, skipped := false }
            counters := { s.mirror.counters with sent := Counter.increase s.mirror.counters.sent } } }) ∧
      (w.vector.count / 128 ≤ w.board.val + 1 → ∀ v, s.mirror.pendingVector = some v →
        exec .gapEnd s = .next { s with
          mirror := { s.mirror with
            activity := .writing { vector := v, board := 0, extensions := 0, outcomes := Octet.fill .notWritten } .addressing
            line := [.address, .word 0]
            pendingVector := none
            latest := some { cycle := w.vector.cycle, outcomes := w.outcomes, skipped := false }
            counters := { s.mirror.counters with sent := Counter.increase s.mirror.counters.sent } } })) ∧
    ((∀ x r, s.mirror.activity ≠ .writing x (.waitReady r)) →
      exec .boardReady s = .next s ∧ exec .boardBusy s = .next s) ∧
    ((∀ x r, s.mirror.activity ≠ .writing x (.waitAck r)) →
      exec .boardAck s = .next s ∧ exec .boardNak s = .next s)

/-- A board outcome (R147, R149, R150, R151, R154): ACKED clears the count and makes the board OK; a failure raises the
count, up to 255, and at the fault limit makes a board that was not FAULTED FAULTED; the outcome is recorded and counted
and the other boards stay. A board that becomes FAULTED or leaves FAULTED posts BOARD-CHANGE, and no other does. GAP is
entered; a gap of 0 ends at once, with the next board addressed, or the report written and a pending vector's writeout
started. -/
def Obligations.BoardOutcomes : Prop :=
  ∀ (s : State) (w : Writeout) (c : Instr) (x : BoardOutcome), s.resetActs = false →
    ((c = .boardAck ∧ x = .acked ∧ ∃ r, s.mirror.activity = .writing w (.waitAck r)) ∨
      (c = .boardNak ∧ x = .naked ∧ ∃ r, s.mirror.activity = .writing w (.waitAck r)) ∨
      (c = .ackTimeout ∧ x = .noAck ∧ s.mirror.activity = .writing w (.waitAck 0)) ∨
      (c = .readyTimeout ∧ x = .noReady ∧ s.mirror.activity = .writing w (.waitReady 0))) →
    ∃ t, exec c s = .next t ∧
      (s.mirror.settings.gap ≠ 0 →
        t.mirror.activity =
          .writing { w with outcomes := w.outcomes.set w.board x } (.gap (s.mirror.settings.gap.setWidth 16)) ∧
        t.mirror.line = [] ∧ t.mirror.latest = s.mirror.latest ∧ t.mirror.pendingVector = s.mirror.pendingVector ∧
        t.mirror.counters.sent = s.mirror.counters.sent) ∧
      (s.mirror.settings.gap = 0 → w.board.val + 1 < w.vector.count / 128 →
        t.mirror.activity =
          .writing { w with outcomes := w.outcomes.set w.board x, board := w.board + 1, extensions := 0 } .addressing ∧
        t.mirror.line = [.address, .word (BitVec.ofNat 16 (w.board + 1).val)] ∧
        t.mirror.latest = s.mirror.latest ∧ t.mirror.pendingVector = s.mirror.pendingVector ∧
        t.mirror.counters.sent = s.mirror.counters.sent) ∧
      (s.mirror.settings.gap = 0 → w.vector.count / 128 ≤ w.board.val + 1 →
        t.mirror.latest =
          some { cycle := w.vector.cycle, outcomes := w.outcomes.set w.board x, skipped := false } ∧
        t.mirror.counters.sent = Counter.increase s.mirror.counters.sent ∧ t.mirror.pendingVector = none ∧
        (s.mirror.pendingVector = none → t.mirror.activity = .idle ∧ t.mirror.line = []) ∧
        (∀ v, s.mirror.pendingVector = some v →
          t.mirror.activity =
            .writing { vector := v, board := 0, extensions := 0, outcomes := Octet.fill .notWritten } .addressing ∧
          t.mirror.line = [.address, .word 0])) ∧
      (x = .acked → t.mirror.boards.get w.board = { state := .ok, faults := 0 }) ∧
      (x ≠ .acked →
        (t.mirror.boards.get w.board).faults =
          (if (s.mirror.boards.get w.board).faults < 255 then (s.mirror.boards.get w.board).faults + 1
           else (s.mirror.boards.get w.board).faults) ∧
        (t.mirror.boards.get w.board).state =
          (if s.mirror.settings.faultLimit ≤ (t.mirror.boards.get w.board).faults then .faulted
           else (s.mirror.boards.get w.board).state)) ∧
      (((s.mirror.boards.get w.board).state = .faulted ↔ (t.mirror.boards.get w.board).state = .faulted) →
        t.ports = s.ports ∧ t.loop = s.loop) ∧
      (¬((s.mirror.boards.get w.board).state = .faulted ↔ (t.mirror.boards.get w.board).state = .faulted) →
        (∀ q, (s.ports.get q).queue.length < 16 →
          { subject := .boardChange w.board (t.mirror.boards.get w.board).state (t.mirror.boards.get w.board).faults,
            cycle := s.manager.cycle, time := s.manager.timebase } ∈ (t.ports.get q).queue) ∧
        (s.loop.loop ≠ .closed ∨ x = .acked →
          t.ports = (s.post (.boardChange w.board (t.mirror.boards.get w.board).state
            (t.mirror.boards.get w.board).faults)).ports)) ∧
      (∀ b, b ≠ w.board → t.mirror.boards.get b = s.mirror.boards.get b ∧
        t.mirror.counters.boards.get b = s.mirror.counters.boards.get b) ∧
      t.mirror.counters.boards.get w.board =
        (match x with
          | .acked => { s.mirror.counters.boards.get w.board with
              acked := Counter.increase (s.mirror.counters.boards.get w.board).acked }
          | .naked => { s.mirror.counters.boards.get w.board with
              naked := Counter.increase (s.mirror.counters.boards.get w.board).naked }
          | .noAck => { s.mirror.counters.boards.get w.board with
              noAck := Counter.increase (s.mirror.counters.boards.get w.board).noAck }
          | .noReady => { s.mirror.counters.boards.get w.board with
              noReady := Counter.increase (s.mirror.counters.boards.get w.board).noReady }
          | .notWritten => s.mirror.counters.boards.get w.board) ∧
      t.mirror.settings = s.mirror.settings ∧ t.mirror.held = s.mirror.held ∧ t.manager = s.manager ∧
      t.command = s.command ∧ t.stores = s.stores ∧
      t.engine = s.engine ∧ t.receivers = s.receivers ∧ t.slots = s.slots

/-- A board that becomes FAULTED with the loop CLOSED requests a trip (R123, R124, R126, R152): while a cycle is open it
is held pending and withdraws a pending request with reason TRIPPED, or adds a cause; in ARMED it is taken at once, and its
LOOP-CHANGE is posted after the BOARD-CHANGE (R127). With the loop in another state no trip is requested. -/
def Obligations.BoardFaultTrips : Prop :=
  ∀ (s : State) (w : Writeout) (c : Instr), s.resetActs = false →
    ((c = .boardNak ∧ ∃ r, s.mirror.activity = .writing w (.waitAck r)) ∨
      (c = .ackTimeout ∧ s.mirror.activity = .writing w (.waitAck 0)) ∨
      (c = .readyTimeout ∧ s.mirror.activity = .writing w (.waitReady 0))) →
    (s.mirror.boards.get w.board).state ≠ .faulted → (s.mirror.boards.get w.board).faults < 255 →
    s.mirror.settings.faultLimit ≤ (s.mirror.boards.get w.board).faults + 1 →
    ∃ t, exec c s = .next t ∧
      (s.loop.loop = .closed → s.cycleIsOpen = true → s.loop.trip = none →
        t.loop = { s.loop with request := none, trip := some { cause := .board w.board, additional := 0 } } ∧
        ∀ r, s.loop.request = some r →
          (t.ports.get r.port).activity =
            .result { code := 0x30, cls := .withdrawn, reason := .tripped, data := [s.loop.loop.code] } 0) ∧
      (s.loop.loop = .closed → s.cycleIsOpen = true → ∀ d, s.loop.trip = some d →
        t.loop = { s.loop with
          trip := some { d with additional := if d.additional < 255 then d.additional + 1 else d.additional } }) ∧
      (s.loop.loop = .closed → s.manager.state = .armed →
        t.loop = { s.loop with
          loop := .frozen
          trip := none
          lastTrip := some { cause := .board w.board, additional := 0, cycle := s.manager.cycle,
                             time := s.manager.timebase, before := .closed } } ∧
        t.ports = ((s.post (.boardChange w.board .faulted ((s.mirror.boards.get w.board).faults + 1))).post
          (.loopChange .closed .frozen (.trip (.board w.board) 0))).ports) ∧
      (s.loop.loop ≠ .closed → t.loop = s.loop)

/-! ## Telemetry -/

/-- GO, HOLD and the end of a telemetry symbol (R192): FILL under HOLD and from an empty FIFO; START before the oldest
record; its words in order, each leaving the FIFO and entering the CRC when sent; then the CRC word and END. That the sender
is IDLE from the choice of END on is log 18, the model's choice. -/
def Obligations.TelemetrySymbols : Prop :=
  ∀ s : State, s.resetActs = false →
    exec .telemetryGo s = .next { s with capture := { s.capture with flow := .go } } ∧
    exec .telemetryHold s = .next { s with capture := { s.capture with flow := .hold } } ∧
    (s.capture.sender = .idle → (s.capture.flow = .hold ∨ s.capture.fifo = []) →
      exec .telemetrySymbolSent s = .next { s with capture := { s.capture with symbol := .fill } }) ∧
    (s.capture.sender = .idle → s.capture.flow = .go → s.capture.fifo ≠ [] →
      exec .telemetrySymbolSent s =
        .next { s with capture := { s.capture with symbol := .start, sender := .sending 0xFFFF .word } }) ∧
    (∀ crc w ws rest, s.capture.sender = .sending crc .word → (s.capture.symbol = .start ∨ s.capture.symbol = .fill) →
      s.capture.flow = .go → s.capture.fifo = (w :: ws) :: rest →
      exec .telemetrySymbolSent s = .next { s with capture := { s.capture with symbol := .word w } }) ∧
    (∀ crc w v ws rest, s.capture.sender = .sending crc .word → s.capture.symbol = .word w →
      s.capture.fifo = (w :: v :: ws) :: rest →
      exec .telemetrySymbolSent s = .next { s with
        capture := { s.capture with
          fifo := (v :: ws) :: rest
          sender := .sending (crcStep crc w) .word
          symbol := if s.capture.flow = .go then .word v else .fill } }) ∧
    (∀ crc w rest, s.capture.sender = .sending crc .word → s.capture.symbol = .word w → s.capture.flow = .go →
      s.capture.fifo = [w] :: rest →
      exec .telemetrySymbolSent s = .next { s with
        capture := { s.capture with
          fifo := rest
          sender := .sending (crcStep crc w) .fin
          symbol := .crc (crcStep crc w) } }) ∧
    (∀ crc w rest, s.capture.sender = .sending crc .word → s.capture.symbol = .word w → s.capture.flow = .hold →
      s.capture.fifo = [w] :: rest →
      exec .telemetrySymbolSent s = .next { s with
        capture := { s.capture with fifo := rest, sender := .sending (crcStep crc w) .crc, symbol := .fill } }) ∧
    (∀ crc, s.capture.sender = .sending crc .crc → s.capture.flow = .go →
      exec .telemetrySymbolSent s =
        .next { s with capture := { s.capture with sender := .sending crc .fin, symbol := .crc crc } }) ∧
    (∀ crc x, s.capture.sender = .sending crc x → (x ≠ .word ∨ ∀ w, s.capture.symbol ≠ .word w) →
      s.capture.flow = .hold →
      exec .telemetrySymbolSent s = .next { s with capture := { s.capture with symbol := .fill } }) ∧
    (∀ crc, s.capture.sender = .sending crc .fin → s.capture.flow = .go →
      exec .telemetrySymbolSent s =
        .next { s with capture := { s.capture with sender := .idle, symbol := .fin } })

/-! ## The ports -/

/-- PORT_SELECT, TRANSACTION_BYTE and PORT_DESELECT (R172, R173): the status byte is formed at the select, the transaction
byte fixes the kind and is answered with the status byte, and the release ends the transaction; the other port and every
block stay. A transaction during which a reset from the other port discarded the port's record ignores its bytes even as a
PUT (R172, R183). The attention line of a port is asserted exactly while it is in RESULT or its event queue is not empty
(R173). A port can take a command in IDLE and in COMMAND alone (R172, R174). -/
def Obligations.Transactions : Prop :=
  (∀ x : Port, x.attention = true ↔ (∃ r n, x.activity = .result r n) ∨ x.queue ≠ []) ∧
  (∀ x : Port, x.takesCommand = true ↔ x.activity = .idle ∨ ∃ r, x.activity = .command r) ∧
  ∀ (s : State) (p : PortId) (b : Byte), s.resetActs = false →
    ((s.ports.get p).transaction = none →
      exec (.portSelect p) s = .next (s.onPort p (fun q =>
        { q with
          transaction := some
            { statusByte :=
                (match q.activity with
                  | .idle => 0x80
                  | .command _ => 0x01
                  | .executing _ => 0x42
                  | .result _ _ => 0x23) ||| (if q.queue = [] then 0 else 0x10)
              kind := .awaiting
              discarded := false } }))) ∧
    (∀ y d, (s.ports.get p).transaction = some { statusByte := y, kind := .awaiting, discarded := d } →
      exec (.transactionByte p b) s = .next (s.onPort p (fun q =>
        { q with
          sent := y
          transaction := some
            { statusByte := y
              kind :=
                if b = 1 then .status
                else if b = 2 ∧ d = false then .put
                else if b = 3 then
                  (match q.activity with
                    | .result _ _ => .take
                    | _ => .ignored)
                else .ignored
              discarded := d } }))) ∧
    exec (.portDeselect p) s = .next (s.onPort p (fun q => { q with transaction := none }))

/-- COMMAND_BYTE in a PUT transaction (R172, R174, R175): the code, the two length bytes and the parameter bytes of a
record that is not complete; bytes in EXECUTING and RESULT ignored; every byte answered with 00h; a record of length 0
complete at its second length byte, shown on a code that names no command, on a wrong length, and on GET STATUS; a record
complete at its last parameter byte makes its command in the same event (log 8, the model's choice), with its parameters
in the layouts of R201, and a code that names none or a length that is not the command's is refused. A LOAD of more than
4,096 words is refused without the words that the port did not hold (R161, R174): the codes are those of R201, and a port
holds the parameter bytes that its command can use (log 25, the model's choice). -/
def Obligations.CommandBytes : Prop :=
  commandCodes =
    [0x01, 0x02, 0x10, 0x11, 0x12, 0x13, 0x14, 0x15, 0x16, 0x20, 0x21, 0x22, 0x30, 0x40, 0x41, 0x50] ∧
  (∀ k ∈ [((0x01 : Byte), 0), (0x02, 1), (0x10, 18), (0x11, 13), (0x12, 7), (0x13, 6), (0x14, 1), (0x15, 10), (0x16, 3),
      (0x20, 8199), (0x21, 8), (0x22, 2), (0x30, 1), (0x40, 0), (0x41, 0), (0x50, 0)], heldBytes k.1 = k.2) ∧
  (∀ c : Byte, c ∉ commandCodes → heldBytes c = 0) ∧
  ∀ (s : State) (p : PortId) (b : Byte) (y : Byte) (d : Bool), s.resetActs = false →
    (s.ports.get p).transaction = some { statusByte := y, kind := .put, discarded := d } →
    ((s.ports.get p).activity = .idle →
      exec (.commandByte p b) s = .next (s.onPort p (fun q =>
        { q with
          sent := 0
          activity := .command { code := b, lengthHigh := none, length := none, counted := 0, params := [] } }))) ∧
    (∀ r, (s.ports.get p).activity = .command r → r.lengthHigh = none → r.length = none →
      exec (.commandByte p b) s = .next (s.onPort p (fun q =>
        { q with sent := 0, activity := .command { r with lengthHigh := some b } }))) ∧
    (∀ r h, (s.ports.get p).activity = .command r → r.lengthHigh = some h → r.length = none → r.counted = 0 →
      h ++ b ≠ (0 : Word) →
      exec (.commandByte p b) s = .next (s.onPort p (fun q =>
        { q with sent := 0, activity := .command { r with length := some (h ++ b) } }))) ∧
    (∀ r h n, (s.ports.get p).activity = .command r → r.lengthHigh = some h → r.length = some n →
      r.counted + 1 < n.toNat →
      exec (.commandByte p b) s = .next (s.onPort p (fun q =>
        { q with
          sent := 0
          activity := .command { r with
            counted := r.counted + 1
            params := if r.params.length < heldBytes r.code then r.params ++ [b] else r.params } }))) ∧
    ((∃ c, (s.ports.get p).activity = .executing c) ∨ (∃ r n, (s.ports.get p).activity = .result r n) →
      exec (.commandByte p b) s = .next (s.onPort p (fun q => { q with sent := 0 }))) ∧
    (∀ r, (s.ports.get p).activity = .command r → r.lengthHigh = some 0 → r.length = none → r.counted = 0 →
      r.params = [] →
      (r.code ∉ commandCodes →
        exec (.commandByte p 0) s = .next (s.onPort p (fun q =>
          { q with
            sent := 0
            activity := .result { code := r.code, cls := .rejected, reason := .unknownCommand, data := [] } 0 }))) ∧
      (r.code ∈ commandCodes → r.code ∉ [(0x01 : Byte), 0x40, 0x41, 0x50] →
        exec (.commandByte p 0) s = .next (s.onPort p (fun q =>
          { q with
            sent := 0
            activity := .result { code := r.code, cls := .rejected, reason := .badLength, data := [] } 0 }))) ∧
      (∀ z : State, z = s.onPort p (fun q => { q with sent := 0 }) →
        (r.code = 0x01 →
          exec (.commandByte p 0) s = .next (s.onPort p (fun q =>
            { q with
              sent := 0
              activity := .result { code := 0x01, cls := .complete, reason := .none, data := statusData p s } 0 }))) ∧
        (r.code = 0x40 → exec (.commandByte p 0) s = exec (.readOffload p) z) ∧
        (r.code = 0x41 → exec (.commandByte p 0) s = exec (.senseEvent p) z) ∧
        (r.code = 0x50 → exec (.commandByte p 0) s = exec (.resetPart p) z))) ∧
    (∀ r h n, (s.ports.get p).activity = .command r → r.lengthHigh = some h → r.length = some n →
      r.counted + 1 = n.toNat → ∀ z : State, z = s.onPort p (fun q => { q with sent := 0 }) →
      (r.code ∉ commandCodes →
        exec (.commandByte p b) s = .next (s.onPort p (fun q =>
          { q with
            sent := 0
            activity := .result { code := r.code, cls := .rejected, reason := .unknownCommand, data := [] } 0 }))) ∧
      (∀ k ∈ [((0x01 : Byte), 0), (0x02, 1), (0x10, 18), (0x11, 13), (0x12, 7), (0x13, 6), (0x14, 1), (0x15, 10),
          (0x16, 3), (0x21, 8), (0x22, 2), (0x30, 1), (0x40, 0), (0x41, 0), (0x50, 0)],
        r.code = k.1 → n.toNat ≠ k.2 →
        exec (.commandByte p b) s = .next (s.onPort p (fun q =>
          { q with
            sent := 0
            activity := .result { code := r.code, cls := .rejected, reason := .badLength, data := [] } 0 }))) ∧
      (r.code = 0x20 → r.params.length = r.counted → n.toNat < 7 →
        exec (.commandByte p b) s = .next (s.onPort p (fun q =>
          { q with
            sent := 0
            activity := .result { code := 0x20, cls := .rejected, reason := .badLength, data := [] } 0 }))) ∧
      (r.code = 0x20 → ∀ (id c1 c0 : Byte) (i : BitVec 32) (bs : List Byte),
        (if r.params.length < 8199 then r.params ++ [b] else r.params) =
          [id] ++ bytes32 i ++ [c1, c0] ++ bs →
        (n.toNat ≠ 7 + 2 * (c1 ++ c0 : Word).toNat →
          exec (.commandByte p b) s = .next (s.onPort p (fun q =>
            { q with
              sent := 0
              activity := .result { code := 0x20, cls := .rejected, reason := .badLength, data := [] } 0 }))) ∧
        (n.toNat = 7 + 2 * (c1 ++ c0 : Word).toNat → 4096 < (c1 ++ c0 : Word).toNat →
          exec (.commandByte p b) s = .next (s.onPort p (fun q =>
            { q with
              sent := 0
              activity := .result { code := 0x20, cls := .rejected, reason := .badParameter, data := [] } 0 }))) ∧
        (∀ ws : List Word, n.toNat = 7 + 2 * (c1 ++ c0 : Word).toNat → (c1 ++ c0 : Word).toNat ≤ 4096 →
          bs = (ws.map bytes16).flatten →
          exec (.commandByte p b) s =
            exec (.load p { store := id, first := i, count := c1 ++ c0, words := ws }) z)) ∧
      (r.params.length = r.counted → ∀ bs : List Byte, bs = r.params ++ [b] →
        (r.code = 0x02 → n = 1 → exec (.commandByte p b) s = exec (.readCounters p b) z) ∧
        (r.code = 0x10 → ∀ (c : Word) (x0 x1 x2 x3 : SlotGeometryParams),
          bs = bytes16 c ++ ([x0, x1, x2, x3].map (fun x => [x.enabled, x.tag] ++ bytes16 x.slopeCount)).flatten →
          exec (.commandByte p b) s = exec (.setGeometry p { actuatorCount := c, slots := ⟨x0, x1, x2, x3⟩ }) z) ∧
        (r.code = 0x11 → ∀ x : TimingParams,
          bs = [x.mode, x.leadSlot, x.edge, x.filter] ++ bytes16 x.delay ++ bytes16 x.period ++ bytes16 x.deadline ++
            [x.queue] ++ bytes16 x.fallback →
          exec (.commandByte p b) s = exec (.setTiming p x) z) ∧
        (r.code = 0x12 → ∀ x : SlotParams,
          bs = [x.slot, x.divisor, x.phase, x.latePolicy, x.holdLimit, x.outOfCycle, x.lossAction] →
          exec (.commandByte p b) s = exec (.setSlot p x) z) ∧
        (r.code = 0x13 → ∀ x : MirrorParams,
          bs = bytes16 x.readyTimeout ++ bytes16 x.ackTimeout ++ [x.gap, x.faultLimit] →
          exec (.commandByte p b) s = exec (.setMirror p x) z) ∧
        (r.code = 0x14 → n = 1 → exec (.commandByte p b) s = exec (.setProbe p b) z) ∧
        (r.code = 0x15 → ∀ x : CaptureParams,
          bs = [x.pattern, x.content] ++ bytes16 x.first ++ bytes16 x.second ++ bytes32 x.mask →
          exec (.commandByte p b) s = exec (.setCapture p x) z) ∧
        (r.code = 0x16 → ∀ x : OffloadParams, bs = bytes16 x.window ++ [x.mask] →
          exec (.commandByte p b) s = exec (.setOffload p x) z) ∧
        (r.code = 0x21 → ∀ x : ReadBackParams, bs = [x.store, x.copy] ++ bytes32 x.first ++ bytes16 x.count →
          exec (.commandByte p b) s = exec (.readBack p x) z) ∧
        (r.code = 0x22 → ∀ x : Word, bs = bytes16 x → exec (.commandByte p b) s = exec (.apply p x) z) ∧
        (r.code = 0x30 → n = 1 →
          (b = 1 → exec (.commandByte p b) s = exec (.loopStart p) z) ∧
          (b = 2 → exec (.commandByte p b) s = exec (.loopClose p) z) ∧
          (b = 3 → exec (.commandByte p b) s = exec (.loopFreeze p) z) ∧
          (b = 4 → exec (.commandByte p b) s = exec (.loopOpen p) z) ∧
          (b = 5 → exec (.commandByte p b) s = exec (.loopStop p) z) ∧
          ((b = 0 ∨ 5 < b.toNat) →
            exec (.commandByte p b) s = .next (s.onPort p (fun q =>
              { q with
                sent := 0
                activity := .result { code := 0x30, cls := .rejected, reason := .badParameter, data := [] } 0 }))))))

/-- RESULT_BYTE in a TAKE transaction (R176): the byte at the read position of the record, which is code, class, reason, data
length and data, is sent and the position advances; with the last byte the result is taken, the port is IDLE, and the
transaction is ignored. In an ignored or a STATUS transaction every further byte is answered with 00h and changes nothing
else (R172); that RESULT_BYTE and COMMAND_BYTE both are such a byte is log 9, the model's choice. -/
def Obligations.ResultBytes : Prop :=
  (∀ (s : State) (p : PortId) (y : Byte) (d : Bool) (r : ResultRecord) (n : Nat), s.resetActs = false →
    (s.ports.get p).transaction = some { statusByte := y, kind := .take, discarded := d } →
    (s.ports.get p).activity = .result r n →
    (n + 1 < r.data.length + 5 →
      exec (.resultByte p) s = .next (s.onPort p (fun q =>
        { q with sent := r.bytes.getD n 0, activity := .result r (n + 1) }))) ∧
    (n + 1 = r.data.length + 5 →
      exec (.resultByte p) s = .next (s.onPort p (fun q =>
        { q with
          sent := r.bytes.getD n 0
          activity := .idle
          transaction := some { statusByte := y, kind := .ignored, discarded := d } }))) ∧
    r.bytes =
      [r.code,
        (match r.cls with
          | .complete => 0
          | .rejected => 1
          | .withdrawn => 2),
        (match r.reason with
          | .none => 0
          | .unknownCommand => 1
          | .badLength => 2
          | .badParameter => 3
          | .wrongState => 4
          | .notConfigured => 5
          | .busy => 6
          | .pending => 7
          | .tripPending => 8
          | .superseded => 9
          | .tripped => 10
          | .reset => 11),
        BitVec.ofNat 8 (r.data.length / 256), BitVec.ofNat 8 r.data.length] ++ r.data) ∧
  ∀ (s : State) (p : PortId) (b y : Byte) (d : Bool) (k : TransactionKind), s.resetActs = false →
    (s.ports.get p).transaction = some { statusByte := y, kind := k, discarded := d } → (k = .ignored ∨ k = .status) →
    exec (.resultByte p) s = .next (s.onPort p (fun q => { q with sent := 0 })) ∧
    exec (.commandByte p b) s = .next (s.onPort p (fun q => { q with sent := 0 }))

/-- GET STATUS completes at once with the status data of that moment and changes no state but its port's result (R178). The
data are the groups of R178 with the codes of R202, and the last cycle record is words 1 to 23 of its telemetry header as 13.6
lays them out; values of several bytes are sent most significant byte first (R199); the link state is DOWN unlocked, LOCKED
until a good frame, and then UP (R27); the ack mask has a bit for each board ACKED (R153). The order and the widths that the
manual leaves open, and the place of the presence bytes, are log 12, the model's choice, and so is the asking port's phase,
COMMAND (log 15). -/
def Obligations.GetStatusChangesNothing : Prop :=
  ∀ (s : State) (p : PortId), s.portReady p →
    exec (.getStatus p) s = .next (s.onPort p (fun q =>
      { q with activity := .result { code := 0x01, cls := .complete, reason := .none, data := statusData p s } 0 })) ∧
    (∀ opt : Nat → Option (List Byte) → List Byte, (∀ n, opt n none = List.replicate (n + 1) 0) →
      (∀ n bs, opt n (some bs) = 1 :: bs) →
      statusData p s =
        [s.loop.loop.code] ++ opt 2 (s.loop.request.map (fun r => [r.target.code, portCode r.port])) ++
        opt 3 (s.loop.trip.map (fun x => [x.cause.code] ++ bytes16 (BitVec.ofNat 16 x.additional))) ++
        opt 14 (s.loop.lastTrip.map (fun x => [x.cause.code] ++ bytes16 (BitVec.ofNat 16 x.additional) ++
          bytes32 x.cycle ++ bytes48 x.time ++ [x.before.code])) ++
        [s.manager.state.code] ++ bytes32 s.manager.cycle ++ bytes48 s.manager.timebase ++ [latchCode s.manager.latch] ++
        opt 46 (s.manager.lastRecord.map (fun r => (r.words.map bytes16).flatten)) ++
        bytes16 s.stores.generation ++
        (match s.stores.load with
          | .idle => [0] ++ opt 4 none
          | .loading j => [1] ++ opt 4 (some ([BitVec.ofNat 8 j.store.number, portCode j.port] ++
              bytes16 (BitVec.ofNat 16 j.written)))) ++
        opt 3 (s.stores.pendingApply.map (fun a => bytes16 (a.selection.setWidth 16) ++ [portCode a.port])) ++
        links.map (fun l => (s.receivers.get l).linkState.code) ++
        (links.map (fun l =>
          [if (s.slots.get l).enabled then (1 : Byte) else 0, (s.slots.get l).tag] ++
            bytes16 (BitVec.ofNat 16 (s.slots.get l).slopeCount) ++ bytes16 (BitVec.ofNat 16 (slopeBase s.slots l)) ++
            (s.slots.get l).policy.bytes ++ opt 6 ((s.slots.get l).heldPolicy.map SlotPolicy.bytes) ++
            [(s.slots.get l).state.code] ++ bytes16 (BitVec.ofNat 16 (s.slots.get l).age) ++
            [if (s.slots.get l).muted then (1 : Byte) else 0] ++ bytes16 (BitVec.ofNat 16 (s.slots.get l).cadence))).flatten ++
        s.manager.settings.bytes ++ opt 13 (s.manager.held.map TimingSettings.bytes) ++
        [s.probe.mode.code] ++ opt 1 (s.probe.held.map (fun m => [m.code])) ++
        bytes16 (BitVec.ofNat 16 s.probe.position) ++
        s.mirror.settings.bytes ++ opt 6 (s.mirror.held.map MirrorSettings.bytes) ++
        s.capture.settings.bytes ++ opt 10 (s.capture.held.map CaptureSettings.bytes) ++
        s.offload.settings.bytes ++ opt 3 (s.offload.held.map OffloadSettings.bytes) ++
        (match s.mirror.activity with
          | .idle => [0] ++ opt 4 none
          | .writing w x =>
            [match x with
              | .addressing => (1 : Byte)
              | .waitReady _ => 2
              | .sending => 3
              | .waitAck _ => 4
              | .gap _ => 5] ++ opt 4 (some (bytes32 w.vector.cycle))) ++
        opt 4 (s.mirror.pendingVector.map (fun v => bytes32 v.cycle)) ++
        (s.mirror.boards.toList.map (fun x => [x.state.code] ++ bytes16 (BitVec.ofNat 16 x.faults))).flatten ++
        opt 14 (s.mirror.latest.map (fun r => bytes32 r.cycle ++ r.outcomes.toList.map BoardOutcome.code ++
          [r.ackMask, if r.skipped then 1 else 0])) ++
        bytes32 (BitVec.ofNat 32 (s.capture.fifo.map List.length).sum) ++ bytes32 s.capture.drops ++
        [if s.offload.fresh then (1 : Byte) else 0] ++ bytes16 (BitVec.ofNat 16 s.offload.count) ++
        [PortId.A, .B].map (fun q =>
          if q = p then (1 : Byte) else match (s.ports.get q).activity with
            | .idle => (0 : Byte)
            | .command _ => 1
            | .executing _ => 2
            | .result _ _ => 3) ++
        bytes16 (BitVec.ofNat 16 (s.ports.get p).queue.length) ++ bytes32 (s.ports.get p).lost) ∧
    (∀ r, s.manager.lastRecord = some r → (∀ x, r.close.probePosition = some x → x < 8) →
      (∀ l, r.close.ages.get l ≤ 16) → r.laidOut r.words) ∧
    [LoopState.idle, .opened, .closed, .frozen].map LoopState.code = [0, 1, 2, 3] ∧
    [RequestTarget.close, .freeze, .opn, .stop].map RequestTarget.code = [2, 3, 4, 5] ∧
    [ManagerState.idle, .armed, .gathering, .closing].map ManagerState.code = [0, 1, 2, 3] ∧
    [none, some LatchedCause.line, some .timer].map latchCode = [0, 1, 2] ∧
    [LinkState.down, .locked, .up].map LinkState.code = [0, 1, 2] ∧
    [SlotState.disabled, .active, .holding, .lost, .muted].map SlotState.code = [0, 1, 2, 3, 4] ∧
    [BoardState.unknown, .ok, .faulted].map BoardState.code = [0, 1, 2] ∧
    [BoardOutcome.notWritten, .acked, .naked, .noAck, .noReady].map BoardOutcome.code = [0, 1, 2, 3, 4] ∧
    (∀ l : LinkId, (TripCause.slot l).code = BitVec.ofNat 8 (0x30 + l.val)) ∧
    (∀ i : BoardId, (TripCause.board i).code = BitVec.ofNat 8 (0x38 + i.val)) ∧
    [PortId.A, .B].map portCode = [0, 1] ∧
    (∀ w : Word, bytes16 w = [w.extractLsb' 8 8, w.extractLsb' 0 8]) ∧
    (∀ w : BitVec 32, bytes32 w = bytes16 (w.extractLsb' 16 16) ++ bytes16 (w.extractLsb' 0 16)) ∧
    (∀ w : Stamp, bytes48 w = bytes16 (w.extractLsb' 32 16) ++ bytes32 (w.extractLsb' 0 32)) ∧
    (∀ r : Receiver, r.linkState =
      match r.decoder with
      | .unlocked _ => .down
      | .locked _ good => if good then .up else .locked) ∧
    ∀ (r : WriteoutReport) (i : BoardId), r.ackMask.getLsbD i.val = decide (r.outcomes.get i = .acked)

/-- READ COUNTERS (R175, R179): KEEP returns every counter, CLEAR returns them and sets them to 0 in the same event, and
any other clear option is refused; nothing else changes, the lost counts included. The counters come in the order of R179;
that each row of a board's outcomes runs over boards 0 to 7 is log 13, the model's choice. A counter increases by 1 and stops
at its largest 32-bit value (R22, R44, R154). -/
def Obligations.ReadCountersReturnsAndClears : Prop :=
  (∀ c : Counter, (c.toNat < 4294967295 → (Counter.increase c).toNat = c.toNat + 1) ∧
    (c.toNat = 4294967295 → Counter.increase c = c)) ∧
  ∀ (s : State) (p : PortId) (b : Byte), s.portReady p →
    exec (.readCounters p 0) s = .next (s.onPort p (fun q =>
      { q with activity := .result { code := 0x02, cls := .complete, reason := .none, data := counterData s } 0 })) ∧
    (b ≠ 0 → b ≠ 1 →
      exec (.readCounters p b) s = .next (s.onPort p (fun q =>
        { q with activity := .result { code := 0x02, cls := .rejected, reason := .badParameter, data := [] } 0 }))) ∧
    exec (.readCounters p 1) s = .next (({ s with
        receivers := s.receivers.map (fun r => { r with counters := ⟨0, 0, 0, 0, 0, 0, 0, 0, 0, 0, 0, 0⟩ })
        manager := { s.manager with counters := ⟨0, 0, 0, 0, 0⟩ }
        mirror := { s.mirror with counters := { boards := Octet.fill ⟨0, 0, 0, 0⟩, sent := 0, skipped := 0 } }
        capture := { s.capture with drops := 0 }
        offload := { s.offload with overwrites := 0 } } : State).onPort p (fun q =>
      { q with activity := .result { code := 0x02, cls := .complete, reason := .none, data := counterData s } 0 })) ∧
    counterData s =
      (((links.map (fun l => s.receivers.get l)).map (fun r =>
          [r.counters.good, r.counters.framing, r.counters.lock, r.counters.crc, r.counters.overrun,
            r.counters.deadline, r.counters.rejectedKind, r.counters.rejectedTag, r.counters.rejectedLength,
            r.counters.dropped, r.counters.sequenceBreaks, r.counters.notices])).flatten ++
        [s.manager.counters.deadlineCloses, s.manager.counters.droppedTriggers, s.manager.counters.lateStarts,
          s.manager.counters.lineOverlaps, s.manager.counters.fallbackOpens] ++
        s.mirror.counters.boards.toList.map BoardCounters.acked ++
        s.mirror.counters.boards.toList.map BoardCounters.naked ++
        s.mirror.counters.boards.toList.map BoardCounters.noAck ++
        s.mirror.counters.boards.toList.map BoardCounters.noReady ++
        [s.mirror.counters.sent, s.mirror.counters.skipped, s.capture.drops, s.offload.overwrites]).flatMap bytes32

/-- SENSE EVENT (R182): the oldest record is removed and returned with the lost count, or none if the queue is empty; the
lost count is then 0; nothing else changes. The record's 19 bytes are the kind, the four subject bytes, the cycle number, the
time and the lost count, with the codes of 13.5. -/
def Obligations.SenseEventTakesOldest : Prop :=
  ∀ (s : State) (p : PortId), s.portReady p →
    (∀ (e : EventRecord) (rest : List EventRecord) (loopCode : LoopState → Byte) (subject : List Byte),
      (s.ports.get p).queue = e :: rest →
      loopCode = (fun x => match x with
        | .idle => 0
        | .opened => 1
        | .closed => 2
        | .frozen => 3) →
      subject = (match e.subject with
        | .linkChange l x => [1, BitVec.ofNat 8 l.val, match x with
            | .down => 0
            | .locked => 1
            | .up => 2, 0, 0]
        | .slotChange l x => [2, BitVec.ofNat 8 l.val, match x with
            | .disabled => 0
            | .active => 1
            | .holding => 2
            | .lost => 3
            | .muted => 4, 0, 0]
        | .loopChange x y (.request q) => [3, loopCode x, loopCode y, if q = .A then 0x10 else 0x11, 0]
        | .loopChange x y (.reset q) => [3, loopCode x, loopCode y, if q = .A then 0x20 else 0x21, 0]
        | .loopChange x y (.trip (.slot l) n) =>
          [3, loopCode x, loopCode y, BitVec.ofNat 8 (0x30 + l.val), BitVec.ofNat 8 n]
        | .loopChange x y (.trip (.board b) n) =>
          [3, loopCode x, loopCode y, BitVec.ofNat 8 (0x38 + b.val), BitVec.ofNat 8 n]
        | .boardChange b x n => [4, BitVec.ofNat 8 b.val, match x with
            | .unknown => 0
            | .ok => 1
            | .faulted => 2, BitVec.ofNat 8 n, 0]
        | .offloadReady _ n => [5, BitVec.ofNat 8 (n / 256), BitVec.ofNat 8 n, 0, 0]) →
      exec (.senseEvent p) s = .next (s.onPort p (fun q =>
        { q with
          queue := rest
          lost := 0
          activity := .result
            { code := 0x41, cls := .complete, reason := .none,
              data := subject ++ bytes32 e.cycle ++ bytes48 e.time ++ bytes32 q.lost } 0 }))) ∧
    ((s.ports.get p).queue = [] →
      exec (.senseEvent p) s = .next (s.onPort p (fun q =>
        { q with
          lost := 0
          activity := .result
            { code := 0x41, cls := .complete, reason := .none, data := List.replicate 15 0 ++ bytes32 q.lost } 0 })))

/-- READ OFFLOAD (R197): the mailbox record with the fresh flag as it stood, which is then cleared; or empty, when nothing
changes; nothing else changes. -/
def Obligations.ReadOffloadReturnsMailbox : Prop :=
  ∀ (s : State) (p : PortId), s.portReady p →
    (∀ m, s.offload.mailbox = some m →
      exec (.readOffload p) s = .next (({ s with offload := { s.offload with fresh := false } } : State).onPort p (fun q =>
        { q with
          activity := .result
            { code := 0x40, cls := .complete, reason := .none,
              data := [1, if s.offload.fresh then 1 else 0] ++ bytes32 m.cycle ++ bytes16 (BitVec.ofNat 16 m.window) ++
              [m.mask.setWidth 8] ++ bytes32 m.values.q0 ++ bytes32 m.values.q1 ++ bytes32 m.values.q2 ++
              bytes32 m.values.q3 } 0 }))) ∧
    (s.offload.mailbox = none →
      exec (.readOffload p) s = .next (s.onPort p (fun q =>
        { q with activity := .result { code := 0x40, cls := .complete, reason := .none, data := [0] } 0 })))

/-- A complete record whose code names no command is refused with UNKNOWN-COMMAND (R175). -/
def Obligations.UnknownCommandRefused : Prop :=
  ∀ (s : State) (p : PortId) (code : Byte), s.portReady p →
    code ∉ [(0x01 : Byte), 0x02, 0x10, 0x11, 0x12, 0x13, 0x14, 0x15, 0x16, 0x20, 0x21, 0x22, 0x30, 0x40, 0x41, 0x50] →
    exec (.unknownCommand p code) s = .next (s.onPort p (fun q =>
      { q with activity := .result { code := code, cls := .rejected, reason := .unknownCommand, data := [] } 0 }))

/-! ## Settings -/

/-- SET GEOMETRY (R48): outside loop IDLE it is refused WRONG-STATE; in IDLE a geometry with a field out of range or with
more than 2,048 enabled slopes is refused BAD-PARAMETER; an accepted one is in force at once, with the slots whose enabled
field changes made ACTIVE or DISABLED, and a SLOT-CHANGE for each of these posted to both ports in ascending slot order
(R48, R60). It completes with the values accepted and 00h for in force (R177, R202), in the layout of SET GEOMETRY (log 14,
the model's choice). Nothing else of either port changes. The slope base of a slot is the sum of the slope counts of the
enabled slots numbered below it (R49). -/
def Obligations.SetGeometryInIdle : Prop :=
  (∀ (slots : Quad Slot) (l : LinkId), slopeBase slots l =
    ((List.range l.val).map (fun n => if (slots.get (Fin.ofNat 4 n)).enabled then (slots.get (Fin.ofNat 4 n)).slopeCount
      else 0)).sum) ∧
  ∀ (s : State) (p : PortId) (x : GeometryParams), s.portReady p →
    (s.loop.loop ≠ .idle →
      exec (.setGeometry p x) s = .next (s.onPort p (fun q =>
        { q with activity := .result { code := 0x10, cls := .rejected, reason := .wrongState, data := [] } 0 }))) ∧
    (s.loop.loop = .idle →
      (x.actuatorCount.toNat < 128 ∨ 1024 < x.actuatorCount.toNat ∨ x.actuatorCount.toNat % 128 ≠ 0 ∨
        (∃ l, (1 < (x.slots.get l).enabled.toNat ∨ (x.slots.get l).slopeCount.toNat < 32 ∨
          1024 < (x.slots.get l).slopeCount.toNat ∨ (x.slots.get l).slopeCount.toNat % 32 ≠ 0)) ∨
        2048 < ((links.filter (fun l => (x.slots.get l).enabled == 1)).map
          (fun l => (x.slots.get l).slopeCount.toNat)).sum) →
      exec (.setGeometry p x) s = .next (s.onPort p (fun q =>
        { q with activity := .result { code := 0x10, cls := .rejected, reason := .badParameter, data := [] } 0 }))) ∧
    (s.loop.loop = .idle → 128 ≤ x.actuatorCount.toNat → x.actuatorCount.toNat ≤ 1024 →
      x.actuatorCount.toNat % 128 = 0 →
      (∀ l, (x.slots.get l).enabled.toNat ≤ 1 ∧ 32 ≤ (x.slots.get l).slopeCount.toNat ∧
        (x.slots.get l).slopeCount.toNat ≤ 1024 ∧ (x.slots.get l).slopeCount.toNat % 32 = 0) →
      ((links.filter (fun l => (x.slots.get l).enabled == 1)).map
        (fun l => (x.slots.get l).slopeCount.toNat)).sum ≤ 2048 →
      ∃ t, exec (.setGeometry p x) s = .next t ∧
        t.command = { s.command with actuatorCount := x.actuatorCount.toNat } ∧
        (∀ (l : LinkId) (e : Bool) (y : Slot), e = ((x.slots.get l).enabled == 1) →
          y = { s.slots.get l with
            enabled := e, tag := (x.slots.get l).tag, slopeCount := (x.slots.get l).slopeCount.toNat } →
          (e = (s.slots.get l).enabled → t.slots.get l = y) ∧
          (e = true → (s.slots.get l).enabled = false →
            t.slots.get l = { y with state := .active, age := 0, muted := false, cadence := y.policy.phase }) ∧
          (e = false → (s.slots.get l).enabled = true →
            t.slots.get l = { y with state := .disabled, age := 0, muted := false })) ∧
        (∀ posted : State,
          posted = [(0 : LinkId), 1, 2, 3].foldl (fun u l =>
            if ((x.slots.get l).enabled == 1) = (s.slots.get l).enabled then u
            else u.post (.slotChange l (if (x.slots.get l).enabled = 1 then .active else .disabled))) s →
          t.ports = (posted.onPort p (fun q =>
            { q with
              activity := .result
                { code := 0x10, cls := .complete, reason := .none,
                  data := bytes16 x.actuatorCount ++
                    ([(0 : LinkId), 1, 2, 3].map (fun l => [(x.slots.get l).enabled, (x.slots.get l).tag] ++
                      bytes16 (x.slots.get l).slopeCount)).flatten ++ [0] } 0 })).ports) ∧
        { t with slots := s.slots, command := s.command, ports := s.ports } = s)

/-- The six SET commands that may run with the loop, refused for a field out of range (R4, R50, R132, R143, R177, R188,
R194), and SET TIMING for LEAD mode outside loop IDLE with a lead slot that is not enabled (R4): nothing changes but the
port's result. -/
def Obligations.SetsRefusedOutOfRange : Prop :=
  ∀ (s : State) (p : PortId), s.portReady p →
    (∀ x : TimingParams, (2 < x.mode.toNat ∨ 3 < x.leadSlot.toNat ∨ 1 < x.edge.toNat ∨ 4 < x.filter.toNat ∨
        x.period.toNat < 100 ∨ x.deadline = 0 ∨ 1 < x.queue.toNat ∨ (0 < x.fallback.toNat ∧ x.fallback.toNat < 100)) →
      exec (.setTiming p x) s = .next (s.onPort p (fun q =>
        { q with activity := .result { code := 0x11, cls := .rejected, reason := .badParameter, data := [] } 0 }))) ∧
    (∀ x : TimingSettings, x.mode = .lead → s.loop.loop ≠ .idle → (s.slots.get x.leadSlot).enabled = false →
      exec (.setTiming p { mode := x.mode.code, leadSlot := BitVec.ofNat 8 x.leadSlot.val, edge := x.edge.code,
                           filter := x.filter.code, delay := x.delay, period := x.period, deadline := x.deadline,
                           queue := if x.queue then 1 else 0, fallback := x.fallback }) s =
        .next (s.onPort p (fun q =>
          { q with activity := .result { code := 0x11, cls := .rejected, reason := .badParameter, data := [] } 0 }))) ∧
    (∀ x : SlotParams, (3 < x.slot.toNat ∨ x.divisor = 0 ∨ 16 < x.divisor.toNat ∨
        x.divisor.toNat ≤ x.phase.toNat ∨ 1 < x.latePolicy.toNat ∨ 15 < x.holdLimit.toNat ∨
        1 < x.outOfCycle.toNat ∨ 1 < x.lossAction.toNat) →
      exec (.setSlot p x) s = .next (s.onPort p (fun q =>
        { q with activity := .result { code := 0x12, cls := .rejected, reason := .badParameter, data := [] } 0 }))) ∧
    (∀ x : MirrorParams, (x.readyTimeout = 0 ∨ x.ackTimeout = 0 ∨ x.faultLimit = 0 ∨ 15 < x.faultLimit.toNat) →
      exec (.setMirror p x) s = .next (s.onPort p (fun q =>
        { q with activity := .result { code := 0x13, cls := .rejected, reason := .badParameter, data := [] } 0 }))) ∧
    (∀ m : Byte, 4 < m.toNat →
      exec (.setProbe p m) s = .next (s.onPort p (fun q =>
        { q with activity := .result { code := 0x14, cls := .rejected, reason := .badParameter, data := [] } 0 }))) ∧
    (∀ x : CaptureParams, (3 < x.pattern.toNat ∨ (1 ≤ x.pattern.toNat ∧ x.first = 0) ∨
        (x.pattern = 2 ∧ x.second.toNat < x.first.toNat) ∨ (x.pattern = 3 ∧ 32 < x.first.toNat)) →
      exec (.setCapture p x) s = .next (s.onPort p (fun q =>
        { q with activity := .result { code := 0x15, cls := .rejected, reason := .badParameter, data := [] } 0 }))) ∧
    (∀ x : OffloadParams, 4096 < x.window.toNat →
      exec (.setOffload p x) s = .next (s.onPort p (fun q =>
        { q with activity := .result { code := 0x16, cls := .rejected, reason := .badParameter, data := [] } 0 })))

/-- The six SET commands accepted while a cycle is open (R4, R50, R132, R143, R177, R188, R194): the values are held, the
command completes at once, and nothing in force changes. That the result data are the accepted values in the layout of their
SET command, a parameter or mask bit that is not read as 0 and the mask of MASK as accepted, and then 01h for held, is log
14, the model's choice. The layouts and the codes of the values are those of the parameters of the SET commands (R201). A
cycle is open in GATHERING and CLOSING (1.1). -/
def Obligations.SetsHeldWhileCycleOpen : Prop :=
  [TriggerMode.lead, .line, .timer].map TriggerMode.code = [0, 1, 2] ∧
  [LineEdge.rising, .falling].map LineEdge.code = [0, 1] ∧
  [LineFilter.off, .f2, .f10, .f50, .f200].map LineFilter.code = [0, 1, 2, 3, 4] ∧
  [LatePolicy.hold, .zero].map LatePolicy.code = [0, 1] ∧
  [OutOfCycle.queue, .drop].map OutOfCycle.code = [0, 1] ∧
  [LossAction.ignore, .trip].map LossAction.code = [0, 1] ∧
  ProbeMode.off.code = 0 ∧ (∀ k, (ProbeMode.on k).code = BitVec.ofNat 8 k) ∧
  (∀ x : TimingSettings, x.bytes =
    [x.mode.code, BitVec.ofNat 8 x.leadSlot.val, x.edge.code, x.filter.code] ++ bytes16 x.delay ++ bytes16 x.period ++
      bytes16 x.deadline ++ [if x.queue then 1 else 0] ++ bytes16 x.fallback) ∧
  (∀ x : SlotPolicy, x.bytes =
    [BitVec.ofNat 8 x.divisor, BitVec.ofNat 8 x.phase, x.late.code, BitVec.ofNat 8 x.holdLimit, x.outOfCycle.code,
      x.lossAction.code]) ∧
  (∀ x : MirrorSettings, x.bytes =
    bytes16 x.readyTimeout ++ bytes16 x.ackTimeout ++ [x.gap, BitVec.ofNat 8 x.faultLimit]) ∧
  (∀ (x : CaptureSettings) (content : Byte),
    content = (if x.drive then 1 else 0) + (if x.residual then 2 else 0) → x.bytes =
      match x.pattern with
      | .off => [0, content] ++ List.replicate 8 0
      | .every n => [1, content] ++ bytes16 (BitVec.ofNat 16 n) ++ List.replicate 6 0
      | .burst m n => [2, content] ++ bytes16 (BitVec.ofNat 16 m) ++ bytes16 (BitVec.ofNat 16 n) ++ List.replicate 4 0
      | .mask n bits => [3, content] ++ bytes16 (BitVec.ofNat 16 n) ++ [0, 0] ++ bytes32 bits) ∧
  (∀ x : OffloadSettings, x.bytes = bytes16 (BitVec.ofNat 16 x.window) ++ [x.mask.setWidth 8]) ∧
  (∀ s : State, s.cycleIsOpen = true ↔ s.manager.state = .gathering ∨ s.manager.state = .closing) ∧
  ∀ (s : State) (p : PortId), s.portReady p → s.cycleIsOpen = true →
    (∀ x : TimingSettings, 100 ≤ x.period.toNat → 1 ≤ x.deadline.toNat → (x.fallback = 0 ∨ 100 ≤ x.fallback.toNat) →
      (x.mode = .lead → s.loop.loop ≠ .idle → (s.slots.get x.leadSlot).enabled = true) →
      exec (.setTiming p { mode := x.mode.code, leadSlot := BitVec.ofNat 8 x.leadSlot.val, edge := x.edge.code,
                           filter := x.filter.code, delay := x.delay, period := x.period, deadline := x.deadline,
                           queue := if x.queue then 1 else 0, fallback := x.fallback }) s =
        .next (({ s with manager := { s.manager with held := some x } } : State).onPort p (fun q =>
          { q with activity := .result { code := 0x11, cls := .complete, reason := .none, data := x.bytes ++ [1] } 0 }))) ∧
    (∀ (l : LinkId) (x : SlotPolicy), 1 ≤ x.divisor → x.divisor ≤ 16 → x.phase < x.divisor → x.holdLimit ≤ 15 →
      exec (.setSlot p { slot := BitVec.ofNat 8 l.val, divisor := BitVec.ofNat 8 x.divisor,
                         phase := BitVec.ofNat 8 x.phase, latePolicy := x.late.code,
                         holdLimit := BitVec.ofNat 8 x.holdLimit, outOfCycle := x.outOfCycle.code,
                         lossAction := x.lossAction.code }) s =
        .next ((s.onSlot l (fun y => { y with heldPolicy := some x })).onPort p (fun q =>
          { q with activity := .result { code := 0x12, cls := .complete, reason := .none,
                                         data := [BitVec.ofNat 8 l.val] ++ x.bytes ++ [1] } 0 }))) ∧
    (∀ x : MirrorSettings, 1 ≤ x.readyTimeout.toNat → 1 ≤ x.ackTimeout.toNat → 1 ≤ x.faultLimit → x.faultLimit ≤ 15 →
      exec (.setMirror p { readyTimeout := x.readyTimeout, ackTimeout := x.ackTimeout, gap := x.gap,
                           faultLimit := BitVec.ofNat 8 x.faultLimit }) s =
        .next (({ s with mirror := { s.mirror with held := some x } } : State).onPort p (fun q =>
          { q with activity := .result { code := 0x13, cls := .complete, reason := .none, data := x.bytes ++ [1] } 0 }))) ∧
    (∀ m : Byte, m.toNat ≤ 4 →
      exec (.setProbe p m) s =
        .next (({ s with probe := { s.probe with held := some (if m = 0 then .off else .on m.toNat) } } : State).onPort p
          (fun q => { q with activity := .result { code := 0x14, cls := .complete, reason := .none, data := [m, 1] } 0 }))) ∧
    (∀ (x : CaptureParams) (t : CapturePattern),
      ((x.pattern = 0 ∧ t = .off) ∨ (x.pattern = 1 ∧ 1 ≤ x.first.toNat ∧ t = .every x.first.toNat) ∨
        (x.pattern = 2 ∧ 1 ≤ x.first.toNat ∧ x.first.toNat ≤ x.second.toNat ∧
          t = .burst x.first.toNat x.second.toNat) ∨
        (x.pattern = 3 ∧ 1 ≤ x.first.toNat ∧ x.first.toNat ≤ 32 ∧ t = .mask x.first.toNat x.mask)) →
      exec (.setCapture p x) s =
        .next (({ s with
          capture := { s.capture with
            held := some { pattern := t, drive := x.content.getLsbD 0, residual := x.content.getLsbD 1 } } } :
          State).onPort p (fun q =>
          { q with
            activity := .result
              { code := 0x15, cls := .complete, reason := .none,
                data := ({ pattern := t, drive := x.content.getLsbD 0, residual := x.content.getLsbD 1 } :
                  CaptureSettings).bytes ++ [1] } 0 }))) ∧
    (∀ x : OffloadParams, x.window.toNat ≤ 4096 →
      exec (.setOffload p x) s =
        .next (({ s with
          offload := { s.offload with
            held := some { window := x.window.toNat, mask := x.mask.extractLsb' 0 4 } } } : State).onPort p (fun q =>
          { q with
            activity := .result
              { code := 0x16, cls := .complete, reason := .none,
                data := bytes16 x.window ++ [(x.mask.extractLsb' 0 4).setWidth 8, 1] } 0 })))

/-- The SET commands accepted with the manager ARMED or IDLE are in force at once (R50, R132, R143, R177, R188, R194): held
values are absent, the probe and capture positions and the offload window are cleared, the cadence count follows a new
divisor or phase. SET TIMING in ARMED (R5): the timers keep running, but a change of mode stops the timer of the mode left,
drops and counts a latched trigger and starts the period; in LEAD mode the fallback starts if none runs, and a waiting lead
frame opens a cycle. That the result data are the accepted values in the layout of their SET command, a parameter or mask bit
that is not read as 0 and the mask of MASK as accepted, and then 00h for in force, is log 14, the model's choice. -/
def Obligations.SetsInForceAtOnce : Prop :=
  ∀ (s : State) (p : PortId), s.portReady p → s.cycleIsOpen = false →
    (∀ x : TimingSettings, 100 ≤ x.period.toNat → 1 ≤ x.deadline.toNat → (x.fallback = 0 ∨ 100 ≤ x.fallback.toNat) →
      s.loop.loop = .idle → s.manager.state = .idle → s.manager.latch = none → s.manager.lineDelay = none →
      s.manager.period = none → s.manager.fallback = none → s.line.measuring = none →
      exec (.setTiming p { mode := x.mode.code, leadSlot := BitVec.ofNat 8 x.leadSlot.val, edge := x.edge.code,
                           filter := x.filter.code, delay := x.delay, period := x.period, deadline := x.deadline,
                           queue := if x.queue then 1 else 0, fallback := x.fallback }) s =
        .next (({ s with manager := { s.manager with settings := x, held := none } } : State).onPort p (fun q =>
          { q with activity := .result { code := 0x11, cls := .complete, reason := .none, data := x.bytes ++ [0] } 0 }))) ∧
    (∀ x : TimingSettings, 100 ≤ x.period.toNat → 1 ≤ x.deadline.toNat → (x.fallback = 0 ∨ 100 ≤ x.fallback.toNat) →
      s.manager.state = .armed →
      (x.mode = .lead → s.loop.loop ≠ .idle → (s.slots.get x.leadSlot).enabled = true) →
      (s.line.measuring = none ∨ (x.filter = s.manager.settings.filter ∧ x.edge = s.manager.settings.edge)) →
      (x.mode ≠ .lead ∨ (s.slots.get x.leadSlot).muted = true ∨ (s.receivers.get x.leadSlot).fifo = [] →
        exec (.setTiming p { mode := x.mode.code, leadSlot := BitVec.ofNat 8 x.leadSlot.val, edge := x.edge.code,
                             filter := x.filter.code, delay := x.delay, period := x.period, deadline := x.deadline,
                             queue := if x.queue then 1 else 0, fallback := x.fallback }) s =
          .next (({ s with manager := { s.manager with
              settings := x
              held := none
              latch := if x.mode = s.manager.settings.mode then s.manager.latch else none
              lineDelay :=
                if x.mode ≠ s.manager.settings.mode ∧ s.manager.settings.mode = .line then none
                else s.manager.lineDelay
              period :=
                if x.mode = s.manager.settings.mode then s.manager.period
                else if x.mode = .timer then some x.period
                else if s.manager.settings.mode = .timer then none
                else s.manager.period
              fallback :=
                if x.mode = .lead then
                  (if s.manager.fallback = none ∧ x.fallback ≠ 0 then some x.fallback else s.manager.fallback)
                else if s.manager.settings.mode = .lead then none
                else s.manager.fallback
              counters := { s.manager.counters with
                droppedTriggers :=
                  if x.mode ≠ s.manager.settings.mode ∧ s.manager.latch ≠ none then
                    Counter.increase s.manager.counters.droppedTriggers
                  else s.manager.counters.droppedTriggers } } } : State).onPort p (fun q =>
            { q with
              activity := .result { code := 0x11, cls := .complete, reason := .none, data := x.bytes ++ [0] } 0 }))) ∧
      (x.mode = .lead → (s.slots.get x.leadSlot).muted = false → (s.receivers.get x.leadSlot).fifo ≠ [] →
        ∃ t o,
          exec (.setTiming p { mode := x.mode.code, leadSlot := BitVec.ofNat 8 x.leadSlot.val, edge := x.edge.code,
                               filter := x.filter.code, delay := x.delay, period := x.period, deadline := x.deadline,
                               queue := if x.queue then 1 else 0, fallback := x.fallback }) s = .next t ∧
          t.manager.openRecord = some o ∧ o.opened.cause = .lead ∧ o.opened.lateStart = false ∧
          o.opened.settings.timing = x ∧ t.manager.settings = x ∧ t.manager.held = none ∧ t.manager.fallback = none ∧
          t.manager.cycle = (if s.manager.cycle = 4294967295 then 1 else s.manager.cycle + 1) ∧
          (t.ports.get p).activity =
            .result { code := 0x11, cls := .complete, reason := .none, data := x.bytes ++ [0] } 0)) ∧
    (∀ (l : LinkId) (x : SlotPolicy), 1 ≤ x.divisor → x.divisor ≤ 16 → x.phase < x.divisor → x.holdLimit ≤ 15 →
      exec (.setSlot p { slot := BitVec.ofNat 8 l.val, divisor := BitVec.ofNat 8 x.divisor,
                         phase := BitVec.ofNat 8 x.phase, latePolicy := x.late.code,
                         holdLimit := BitVec.ofNat 8 x.holdLimit, outOfCycle := x.outOfCycle.code,
                         lossAction := x.lossAction.code }) s =
        .next ((s.onSlot l (fun y =>
          { y with
            policy := x
            heldPolicy := none
            cadence := if x.divisor = y.policy.divisor ∧ x.phase = y.policy.phase then y.cadence else x.phase })).onPort p
          (fun q => { q with activity := .result { code := 0x12, cls := .complete, reason := .none,
                                                   data := [BitVec.ofNat 8 l.val] ++ x.bytes ++ [0] } 0 }))) ∧
    (∀ x : MirrorSettings, 1 ≤ x.readyTimeout.toNat → 1 ≤ x.ackTimeout.toNat → 1 ≤ x.faultLimit → x.faultLimit ≤ 15 →
      exec (.setMirror p { readyTimeout := x.readyTimeout, ackTimeout := x.ackTimeout, gap := x.gap,
                           faultLimit := BitVec.ofNat 8 x.faultLimit }) s =
        .next (({ s with mirror := { s.mirror with settings := x, held := none } } : State).onPort p (fun q =>
          { q with activity := .result { code := 0x13, cls := .complete, reason := .none, data := x.bytes ++ [0] } 0 }))) ∧
    (∀ m : Byte, m.toNat ≤ 4 →
      exec (.setProbe p m) s =
        .next (({ s with probe := { mode := if m = 0 then .off else .on m.toNat, held := none, position := 0 } } :
          State).onPort p
          (fun q => { q with activity := .result { code := 0x14, cls := .complete, reason := .none, data := [m, 0] } 0 }))) ∧
    (∀ (x : CaptureParams) (t : CapturePattern),
      ((x.pattern = 0 ∧ t = .off) ∨ (x.pattern = 1 ∧ 1 ≤ x.first.toNat ∧ t = .every x.first.toNat) ∨
        (x.pattern = 2 ∧ 1 ≤ x.first.toNat ∧ x.first.toNat ≤ x.second.toNat ∧
          t = .burst x.first.toNat x.second.toNat) ∨
        (x.pattern = 3 ∧ 1 ≤ x.first.toNat ∧ x.first.toNat ≤ 32 ∧ t = .mask x.first.toNat x.mask)) →
      exec (.setCapture p x) s =
        .next (({ s with capture := { s.capture with
            settings := { pattern := t, drive := x.content.getLsbD 0, residual := x.content.getLsbD 1 }
            held := none
            position := 0 } } : State).onPort p (fun q =>
          { q with
            activity := .result
              { code := 0x15, cls := .complete, reason := .none,
                data := ({ pattern := t, drive := x.content.getLsbD 0, residual := x.content.getLsbD 1 } :
                  CaptureSettings).bytes ++ [0] } 0 }))) ∧
    (∀ x : OffloadParams, x.window.toNat ≤ 4096 →
      exec (.setOffload p x) s =
        .next (({ s with offload := { s.offload with
            settings := { window := x.window.toNat, mask := x.mask.extractLsb' 0 4 }
            held := none
            count := 0
            accumulators := ⟨0, 0, 0, 0⟩ } } : State).onPort p (fun q =>
          { q with
            activity := .result
              { code := 0x16, cls := .complete, reason := .none,
                data := bytes16 x.window ++ [(x.mask.extractLsb' 0 4).setWidth 8, 0] } 0 })))

/-! ## The stores -/

/-- LOAD (R161): the checks in their order, each refusal changing only the port's result; an accepted LOAD makes the load
engine LOADING with 0 words written and puts the port in EXECUTING. -/
def Obligations.LoadChecksAndStarts : Prop :=
  ∀ (s : State) (p : PortId) (x : LoadParams), s.portReady p →
    ((8 < x.store.toNat ∨ x.count = 0 ∨ 4096 < x.count.toNat) →
      exec (.load p x) s = .next (s.onPort p (fun q =>
        { q with activity := .result { code := 0x20, cls := .rejected, reason := .badParameter, data := [] } 0 }))) ∧
    (∀ id : StoreId, x.store = BitVec.ofNat 8 id.number → 1 ≤ x.count.toNat → x.count.toNat ≤ 4096 →
      (id.size < x.first.toNat + x.count.toNat →
        exec (.load p x) s = .next (s.onPort p (fun q =>
          { q with activity := .result { code := 0x20, cls := .rejected, reason := .badParameter, data := [] } 0 }))) ∧
      (x.first.toNat + x.count.toNat ≤ id.size →
        (s.stores.load ≠ .idle →
          exec (.load p x) s = .next (s.onPort p (fun q =>
            { q with activity := .result { code := 0x20, cls := .rejected, reason := .busy, data := [] } 0 }))) ∧
        (s.stores.load = .idle →
          (∀ a, s.stores.pendingApply = some a → a.selection.getLsbD id.number = true →
            exec (.load p x) s = .next (s.onPort p (fun q =>
              { q with activity := .result { code := 0x20, cls := .rejected, reason := .pending, data := [] } 0 }))) ∧
          ((∀ a, s.stores.pendingApply = some a → a.selection.getLsbD id.number = false) →
            exec (.load p x) s = .next (({ s with stores := { s.stores with
                load := .loading { store := id, first := x.first, count := x.count.toNat, written := 0, port := p,
                                   words := x.words } } } : State).onPort p
              (fun q => { q with activity := .executing .load }))))))

/-- LOAD_WORD_WRITE (R162): the next word is in the shadow copy and every other word of either copy of every store reads as
before; the last word returns the load engine to IDLE and completes the LOAD with the store, the first index and the
count. The arrays are taken in the canonical form that every step keeps. The stores have the numbers and sizes of R159, and
a word of one is the value listed for its index, or the power-on contents where none is. -/
def Obligations.LoadWordWriteWritesShadow : Prop :=
  [StoreId.matrix, .refslopes, .offsets, .limits, .gains, .groupmap, .neighbours, .probes, .offloadvec].map
      (fun id => (id.number, id.size)) =
    [(0, 2097152), (1, 2048), (2, 1024), (3, 2048), (4, 16), (5, 1024), (6, 6145), (7, 516), (8, 4096)] ∧
  (∀ c : Stores, [StoreId.matrix, .refslopes, .offsets, .limits, .gains, .groupmap, .neighbours, .probes, .offloadvec].map
    c.get = [c.matrix, c.refslopes, c.offsets, c.limits, c.gains, c.groupmap, c.neighbours, c.probes, c.offloadvec]) ∧
  (∀ (id : StoreId) (c : Cells 16) (i : Nat), storeWord id c i = ((c.find? (fun e => e.1 == i)).map Prod.snd).getD
    (match id with
      | .limits => if i % 2 = 0 then 0x8000 else 0x7FFF
      | .gains => if i % 2 = 0 then 0 else 0xFFFF
      | _ => 0)) ∧
  ∀ (s : State) (j : LoadJob), s.resetActs = false → s.memoryWf = true → s.stores.load = .loading j →
    ∃ t, exec .loadWordWrite s = .next t ∧
      storeWord j.store (t.stores.shadow.get j.store) (j.first.toNat + j.written) = j.words.getD j.written 0 ∧
      (∀ i, i ≠ j.first.toNat + j.written →
        storeWord j.store (t.stores.shadow.get j.store) i = storeWord j.store (s.stores.shadow.get j.store) i) ∧
      (∀ id, id ≠ j.store → t.stores.shadow.get id = s.stores.shadow.get id) ∧
      t.stores.active = s.stores.active ∧ t.stores.generation = s.stores.generation ∧
      t.stores.pendingApply = s.stores.pendingApply ∧
      (j.written + 1 < j.count →
        t.stores.load = .loading { j with written := j.written + 1 } ∧ { t with stores := s.stores } = s) ∧
      (j.count ≤ j.written + 1 →
        t.stores.load = .idle ∧
        { t with stores := s.stores } = s.onPort j.port (fun q =>
          { q with
            activity := .result
              { code := 0x20, cls := .complete, reason := .none,
                data := [BitVec.ofNat 8 j.store.number] ++ bytes32 j.first ++ bytes16 (BitVec.ofNat 16 j.count) } 0 }))

/-- READ BACK (R163): refused BAD-PARAMETER for a field out of range and BUSY for the shadow copy of the store being
loaded; otherwise it returns the generation, its parameters and the words of the copy; nothing else changes. -/
def Obligations.ReadBackReturnsWords : Prop :=
  ∀ (s : State) (p : PortId) (x : ReadBackParams), s.portReady p →
    ((8 < x.store.toNat ∨ 1 < x.copy.toNat ∨ x.count = 0 ∨ 4096 < x.count.toNat) →
      exec (.readBack p x) s = .next (s.onPort p (fun q =>
        { q with activity := .result { code := 0x21, cls := .rejected, reason := .badParameter, data := [] } 0 }))) ∧
    (∀ id : StoreId, x.store = BitVec.ofNat 8 id.number → 1 ≤ x.count.toNat → x.count.toNat ≤ 4096 →
      x.copy.toNat ≤ 1 →
      (id.size < x.first.toNat + x.count.toNat →
        exec (.readBack p x) s = .next (s.onPort p (fun q =>
          { q with activity := .result { code := 0x21, cls := .rejected, reason := .badParameter, data := [] } 0 }))) ∧
      (x.first.toNat + x.count.toNat ≤ id.size →
        (x.copy = 1 → (∃ j, s.stores.load = .loading j ∧ j.store = id) →
          exec (.readBack p x) s = .next (s.onPort p (fun q =>
            { q with activity := .result { code := 0x21, cls := .rejected, reason := .busy, data := [] } 0 }))) ∧
        ((x.copy = 0 ∨ ∀ j, s.stores.load = .loading j → j.store ≠ id) →
          exec (.readBack p x) s = .next (s.onPort p (fun q =>
            { q with
              activity := .result
                { code := 0x21, cls := .complete, reason := .none,
                  data := bytes16 s.stores.generation ++ [x.store, x.copy] ++ bytes32 x.first ++ bytes16 x.count ++
                  ((List.range x.count.toNat).map (fun i => bytes16 (storeWord id
                  ((if x.copy = 0 then s.stores.active else s.stores.shadow).get id) (x.first.toNat + i)))).flatten }
                  0 })))))

/-- APPLY (R164, R165, R166): its checks; pending while a cycle is open; otherwise the exchange at once, which swaps the two
copies of every selected store, keeps the others and increases the generation by 1. -/
def Obligations.ApplyExchangesOrWaits : Prop :=
  ∀ (s : State) (p : PortId) (w : Word), s.portReady p →
    ((w = 0 ∨ 512 ≤ w.toNat) →
      exec (.apply p w) s = .next (s.onPort p (fun q =>
        { q with activity := .result { code := 0x22, cls := .rejected, reason := .badParameter, data := [] } 0 }))) ∧
    (w ≠ 0 → w.toNat < 512 →
      ((s.stores.pendingApply ≠ none ∨ ∃ j, s.stores.load = .loading j ∧ w.getLsbD j.store.number = true) →
        exec (.apply p w) s = .next (s.onPort p (fun q =>
          { q with activity := .result { code := 0x22, cls := .rejected, reason := .busy, data := [] } 0 }))) ∧
      (s.stores.pendingApply = none → (∀ j, s.stores.load = .loading j → w.getLsbD j.store.number = false) →
        (s.cycleIsOpen = true →
          exec (.apply p w) s = .next (({ s with stores := { s.stores with
              pendingApply := some { selection := w.extractLsb' 0 9, port := p } } } : State).onPort p
            (fun q => { q with activity := .executing .apply }))) ∧
        (s.cycleIsOpen = false →
          ∃ t, exec (.apply p w) s = .next t ∧ t.stores.generation = s.stores.generation + 1 ∧
            t.stores.load = s.stores.load ∧ t.stores.pendingApply = none ∧
            (∀ id : StoreId, w.getLsbD id.number = true →
              t.stores.active.get id = s.stores.shadow.get id ∧ t.stores.shadow.get id = s.stores.active.get id) ∧
            (∀ id : StoreId, w.getLsbD id.number = false →
              t.stores.active.get id = s.stores.active.get id ∧ t.stores.shadow.get id = s.stores.shadow.get id) ∧
            { t with stores := s.stores } = s.onPort p (fun q =>
              { q with
                activity := .result
                  { code := 0x22, cls := .complete, reason := .none,
                    data := bytes16 w ++ bytes16 (s.stores.generation + 1) } 0 }))))

/-! ## The loop -/

/-- LOOP CLOSE, FREEZE, OPEN and STOP taken at once in ARMED (R115, R117, R119, R121, R122, R127): the loop state, U cleared
by OPEN alone, LOOP-CHANGE posted and the result; nothing else changes but for STOP, which makes the manager IDLE, stops its
timers and drops and counts a latched trigger (R2), empties every staging FIFO, counts its frames as dropped and receives a
frame in reception on in DISCARDING (R43). -/
def Obligations.LoopRequestsAtOnce : Prop :=
  ∀ (s : State) (p : PortId), s.portReady p → s.manager.state = .armed → s.loop.trip = none → s.loop.request = none →
    ((s.loop.loop = .opened ∨ s.loop.loop = .frozen) →
      exec (.loopClose p) s = .next ((({ s with loop := { s.loop with loop := .closed } } : State).post
        (.loopChange s.loop.loop .closed (.request p))).onPort p (fun q =>
          { q with activity := .result { code := 0x30, cls := .complete, reason := .none,
                                         data := [s.loop.loop.code, 2] ++ bytes32 s.manager.cycle } 0 }))) ∧
    (s.loop.loop = .closed →
      exec (.loopFreeze p) s = .next ((({ s with loop := { s.loop with loop := .frozen } } : State).post
        (.loopChange .closed .frozen (.request p))).onPort p (fun q =>
          { q with activity := .result { code := 0x30, cls := .complete, reason := .none,
                                         data := [2, 3] ++ bytes32 s.manager.cycle } 0 }))) ∧
    ((s.loop.loop = .closed ∨ s.loop.loop = .frozen) →
      exec (.loopOpen p) s = .next ((({ s with
          loop := { s.loop with loop := .opened }
          command := { s.command with u := [] } } : State).post
        (.loopChange s.loop.loop .opened (.request p))).onPort p (fun q =>
          { q with activity := .result { code := 0x30, cls := .complete, reason := .none,
                                         data := [s.loop.loop.code, 1] ++ bytes32 s.manager.cycle } 0 }))) ∧
    (s.loop.loop ≠ .idle →
      exec (.loopStop p) s = .next ((({ s with
          loop := { s.loop with loop := .idle }
          manager := { s.manager with
            state := .idle
            lineDelay := none
            period := none
            deadline := none
            fallback := none
            latch := none
            counters := { s.manager.counters with
              droppedTriggers :=
                if s.manager.latch = none then s.manager.counters.droppedTriggers
                else Counter.increase s.manager.counters.droppedTriggers } }
          receivers := s.receivers.map (fun r =>
            { r with
              fifo := []
              flow := .go
              reception :=
                (match r.reception with
                  | .storing f => .discarding { f with slopes := [] }
                  | x => x)
              counters := { r.counters with
                dropped := r.fifo.foldl (fun n _ => Counter.increase n) r.counters.dropped } }) } : State).post
        (.loopChange s.loop.loop .idle (.request p))).onPort p (fun q =>
          { q with activity := .result { code := 0x30, cls := .complete, reason := .none,
                                         data := [s.loop.loop.code, 0] ++ bytes32 s.manager.cycle } 0 })))

/-- LOOP requests while a cycle is open, and refused (R115, R117, R118, R125): an accepted request becomes the pending
request and its port EXECUTING, a request of the other port it replaces ends WITHDRAWN SUPERSEDED; a pending trip refuses
every request, and a state from which the target is not valid refuses it WRONG-STATE. -/
def Obligations.LoopRequestsPendingOrRefused : Prop :=
  ∀ (s : State) (p : PortId) (c : Instr) (tg : RequestTarget), s.portReady p →
    ((c = .loopClose p ∧ tg = .close) ∨ (c = .loopFreeze p ∧ tg = .freeze) ∨ (c = .loopOpen p ∧ tg = .opn) ∨
      (c = .loopStop p ∧ tg = .stop)) →
    (s.loop.trip ≠ none →
      exec c s = .next (s.onPort p (fun q =>
        { q with activity := .result { code := 0x30, cls := .rejected, reason := .tripPending, data := [] } 0 })) ∧
      exec (.loopStart p) s = .next (s.onPort p (fun q =>
        { q with activity := .result { code := 0x30, cls := .rejected, reason := .tripPending, data := [] } 0 }))) ∧
    (s.loop.trip = none →
      ((tg = .close ∧ (s.loop.loop = .idle ∨ s.loop.loop = .closed)) ∨ (tg = .freeze ∧ s.loop.loop ≠ .closed) ∨
          (tg = .opn ∧ (s.loop.loop = .idle ∨ s.loop.loop = .opened)) ∨ (tg = .stop ∧ s.loop.loop = .idle)) →
      exec c s = .next (s.onPort p (fun q =>
        { q with activity := .result { code := 0x30, cls := .rejected, reason := .wrongState, data := [] } 0 }))) ∧
    (s.loop.trip = none → s.cycleIsOpen = true →
      ((tg = .close ∧ (s.loop.loop = .opened ∨ s.loop.loop = .frozen)) ∨ (tg = .freeze ∧ s.loop.loop = .closed) ∨
          (tg = .opn ∧ (s.loop.loop = .closed ∨ s.loop.loop = .frozen)) ∨ (tg = .stop ∧ s.loop.loop ≠ .idle)) →
      (s.loop.request = none →
        exec c s = .next (({ s with loop := { s.loop with request := some { target := tg, port := p } } } : State).onPort p
          (fun q => { q with activity := .executing .loop }))) ∧
      (∀ r, s.loop.request = some r → r.port = p.other →
        exec c s = .next ((({ s with loop := { s.loop with request := some { target := tg, port := p } } } :
            State).onPort p.other (fun q =>
              { q with activity := .result { code := 0x30, cls := .withdrawn, reason := .superseded,
                                             data := [s.loop.loop.code, if p = .A then 0 else 1] } 0 })).onPort p
          (fun q => { q with activity := .executing .loop }))))

/-- LOOP START (R115, R116, R119, R120, R2, R7, R10): refused outside IDLE, and NOT-CONFIGURED with no slot enabled or, in
LEAD mode, with the lead slot disabled; accepted it makes the loop OPEN and the manager ARMED with cycle number 0, empty latch
and records, the period running in TIMER mode and the fallback in LEAD mode, and resets the blocks; in LEAD mode a lead frame
that waits opens cycle 1 in the same event (R6, R12). LOOP-CHANGE from IDLE to OPEN with the port as its cause is posted first,
then SLOT-CHANGE for each slot whose state changes, in ascending order, all with cycle number 0 (R61, R127). -/
def Obligations.LoopStartArmsLoop : Prop :=
  ∀ (s posted : State) (p : PortId), s.portReady p → s.loop.trip = none →
    posted = [(0 : LinkId), 1, 2, 3].foldl (fun u l =>
        if (s.slots.get l).state =
          (if (s.slots.get l).enabled then (if (s.slots.get l).muted then .muted else .active) else .disabled) then u
        else u.post (.slotChange l
          (if (s.slots.get l).enabled then (if (s.slots.get l).muted then .muted else .active) else .disabled)))
      (({ s with manager := { s.manager with cycle := 0 } } : State).post (.loopChange .idle .opened (.request p))) →
    (s.loop.loop ≠ .idle →
      exec (.loopStart p) s = .next (s.onPort p (fun q =>
        { q with activity := .result { code := 0x30, cls := .rejected, reason := .wrongState, data := [] } 0 }))) ∧
    (s.loop.loop = .idle →
      ((∀ l, (s.slots.get l).enabled = false) ∨
        (s.manager.settings.mode = .lead ∧ (s.slots.get s.manager.settings.leadSlot).enabled = false)) →
      exec (.loopStart p) s = .next (s.onPort p (fun q =>
        { q with activity := .result { code := 0x30, cls := .rejected, reason := .notConfigured, data := [] } 0 }))) ∧
    (s.loop.loop = .idle → (∃ l, (s.slots.get l).enabled = true) →
      (s.manager.settings.mode = .lead → (s.slots.get s.manager.settings.leadSlot).enabled = true) →
      (s.manager.settings.mode ≠ .lead ∨ (s.slots.get s.manager.settings.leadSlot).muted = true ∨
        (s.receivers.get s.manager.settings.leadSlot).fifo = []) →
      ∃ t, exec (.loopStart p) s = .next t ∧ t.loop = { s.loop with loop := .opened, request := none } ∧
        t.manager = { s.manager with
          state := .armed
          cycle := 0
          latch := none
          openRecord := none
          lastRecord := none
          period := if s.manager.settings.mode = .timer then some s.manager.settings.period else s.manager.period
          fallback :=
            if s.manager.settings.mode = .lead ∧ s.manager.settings.fallback ≠ 0 then some s.manager.settings.fallback
            else s.manager.fallback } ∧
        (∀ l, t.slots.get l = { s.slots.get l with
          age := 0
          cadence := (s.slots.get l).policy.phase
          state := if (s.slots.get l).enabled then (if (s.slots.get l).muted then .muted else .active) else .disabled }) ∧
        (∀ l a, (t.engine.fresh.get l).at a = 0 ∧ (t.engine.held.get l).at a = 0) ∧ t.engine.pointer = 0 ∧
        (∀ a, t.command.u.at a = 0) ∧ t.command.d = s.command.d ∧ t.probe.position = 0 ∧ t.capture.position = 0 ∧
        t.offload.count = 0 ∧ t.offload.accumulators = ⟨0, 0, 0, 0⟩ ∧
        (t.ports.get p).activity =
          .result { code := 0x30, cls := .complete, reason := .none, data := [0, 1, 0, 0, 0, 0] } 0 ∧
        (∀ q, (t.ports.get q).queue = (posted.ports.get q).queue ∧ (t.ports.get q).lost = (posted.ports.get q).lost) ∧
        t.stores = s.stores ∧ t.mirror = s.mirror ∧ t.receivers = s.receivers) ∧
    (s.loop.loop = .idle → s.manager.settings.mode = .lead →
      (s.slots.get s.manager.settings.leadSlot).enabled = true →
      (s.slots.get s.manager.settings.leadSlot).muted = false →
      (s.receivers.get s.manager.settings.leadSlot).fifo ≠ [] →
      ∃ t o, exec (.loopStart p) s = .next t ∧ t.loop = { s.loop with loop := .opened, request := none } ∧
        t.manager.state = .gathering ∧ t.manager.cycle = 1 ∧ t.manager.openRecord = some o ∧ t.manager.lastRecord = none ∧
        o.opened.cycle = 1 ∧ o.opened.cause = .lead ∧ o.opened.lateStart = false ∧ o.opened.loop = .opened ∧
        o.opened.time = s.manager.timebase ∧ t.manager.deadline = some s.manager.settings.deadline ∧
        t.manager.fallback = none ∧
        (t.ports.get p).activity =
          .result { code := 0x30, cls := .complete, reason := .none, data := [0, 1, 0, 0, 0, 0] } 0 ∧
        ∀ q, (t.ports.get q).queue = (posted.ports.get q).queue ∧ (t.ports.get q).lost = (posted.ports.get q).lost)

/-- RESET PART (R183, R24, R46, R64, R82, R83, R103, R130, R141, R157, R169, R172, R193, R198): the other port by its phase,
its PUT transaction in progress to be ignored where its record is discarded; both queues holding exactly the LOOP-CHANGE with
cause RESET; the result at the issuing port; and every block's soft reset, with what each keeps. That a receiver keeps the
attached sequence is log 16, the model's choice. A measurement of the timing line that held filter or edge values start again
is left out (log 7). -/
def Obligations.ResetPartResetsEveryBlock : Prop :=
  ∀ (s : State) (p : PortId), s.portReady p →
    ∃ t ev, exec (.resetPart p) s = .next t ∧
      ev = { subject := .loopChange s.loop.loop .idle (.reset p), cycle := s.manager.cycle,
             time := s.manager.timebase } ∧
      t.ports.get p = { s.ports.get p with
        activity := .result { code := 0x50, cls := .complete, reason := .none,
                              data := (match (s.ports.get p.other).activity with
                                | .idle => [0, 0]
                                | .command _ => [1, 1]
                                | .executing _ => [2, 2]
                                | .result _ _ => [3, 3]) } 0
        queue := [ev]
        lost := 0 } ∧
      ((s.ports.get p.other).activity = .idle →
        t.ports.get p.other = { s.ports.get p.other with queue := [ev], lost := 0 }) ∧
      (∀ r, (s.ports.get p.other).activity = .command r →
        t.ports.get p.other = { s.ports.get p.other with
          activity := .idle
          transaction := (s.ports.get p.other).transaction.map (fun x =>
            { x with kind := if x.kind = .put then .ignored else x.kind, discarded := true })
          queue := [ev]
          lost := 0 }) ∧
      (∀ r n, (s.ports.get p.other).activity = .result r n →
        t.ports.get p.other = { s.ports.get p.other with queue := [ev], lost := 0 }) ∧
      ((s.ports.get p.other).activity = .executing .apply →
        t.ports.get p.other = { s.ports.get p.other with
          activity := .result { code := 0x22, cls := .withdrawn, reason := .reset,
                                data := bytes16 s.stores.generation } 0
          queue := [ev]
          lost := 0 }) ∧
      ((s.ports.get p.other).activity = .executing .loop →
        t.ports.get p.other = { s.ports.get p.other with
          activity := .result { code := 0x30, cls := .withdrawn, reason := .reset, data := [s.loop.loop.code] } 0
          queue := [ev]
          lost := 0 }) ∧
      (∀ j, (s.ports.get p.other).activity = .executing .load → s.stores.load = .loading j →
        t.ports.get p.other = { s.ports.get p.other with
          activity := .result { code := 0x20, cls := .withdrawn, reason := .reset,
                                data := bytes16 (BitVec.ofNat 16 j.written) } 0
          queue := [ev]
          lost := 0 }) ∧
      t.loop = { loop := .idle, request := none, trip := none, lastTrip := s.loop.lastTrip } ∧
      t.manager = { s.manager with
        state := .idle
        settings := s.manager.held.getD s.manager.settings
        held := none
        latch := none
        lineDelay := none
        period := none
        deadline := none
        fallback := none
        openRecord := none
        counters := { s.manager.counters with
          droppedTriggers :=
            if s.manager.latch = none then s.manager.counters.droppedTriggers
            else Counter.increase s.manager.counters.droppedTriggers } } ∧
      t.line.raw = s.line.raw ∧
      ((s.manager.held = none ∨ s.line.measuring = none ∨
          ∃ x, s.manager.held = some x ∧ x.filter = s.manager.settings.filter ∧ x.edge = s.manager.settings.edge) →
        t.line = s.line) ∧
      (∀ l, t.receivers.get l = { s.receivers.get l with
        reception :=
          (match (s.receivers.get l).decoder with
            | .unlocked _ => .off
            | .locked _ _ => .between)
        fifo := []
        flow := .go
        counters := ⟨0, 0, 0, 0, 0, 0, 0, 0, 0, 0, 0, 0⟩ }) ∧
      (∀ l, t.slots.get l = { s.slots.get l with
        policy := (s.slots.get l).heldPolicy.getD (s.slots.get l).policy
        heldPolicy := none
        muted := false
        age := 0
        cadence := ((s.slots.get l).heldPolicy.getD (s.slots.get l).policy).phase
        state := if (s.slots.get l).enabled then .active else .disabled }) ∧
      t.engine.pointer = 0 ∧ t.engine.inFlight = none ∧ (∀ l, t.engine.records.get l = none) ∧
      (∀ l a, (t.engine.fresh.get l).at a = 0 ∧ (t.engine.held.get l).at a = 0) ∧ (∀ j, t.engine.residuals.at j = 0) ∧
      (∀ a, t.command.u.at a = 0) ∧ { t.command with u := s.command.u } = { s.command with working := none } ∧
      t.stores = { s.stores with load := .idle, pendingApply := none } ∧
      t.probe = { mode := s.probe.held.getD s.probe.mode, held := none, position := 0 } ∧
      t.mirror = { s.mirror with
        activity := .idle
        pendingVector := none
        line := []
        settings := s.mirror.held.getD s.mirror.settings
        held := none } ∧
      t.capture = { s.capture with
        fifo := []
        sender := .idle
        position := 0
        settings := s.capture.held.getD s.capture.settings
        held := none } ∧
      t.offload = { s.offload with
        mailbox := none
        fresh := false
        count := 0
        accumulators := ⟨0, 0, 0, 0⟩
        settings := s.offload.held.getD s.offload.settings
        held := none } ∧
      t.pending = s.pending ∧ t.resetActs = s.resetActs

/-! ## Invariants that every step keeps -/

/-- Every step keeps the bounds of the part's buffers and ages: at most 16 records in an event queue, 65,536 words in the
telemetry FIFO, 64 groups in a staging FIFO, and hold ages in 0..16. -/
def Obligations.StepKeepsBounds : Prop :=
  ∀ s t : State, step s = .next t →
    (s.queuesBounded → t.queuesBounded) ∧ (s.telemetryBounded → t.telemetryBounded) ∧
      (s.stagingBounded → t.stagingBounded) ∧ (s.agesBounded → t.agesBounded)

/-- Every step keeps the canonical form of every array of words: the stores, U, D, contributions, residuals, vectors. An
array is in that form if its indices rise strictly and no entry is what an unlisted index reads as, which is 0 in every array
but a store. -/
def Obligations.StepKeepsCanonicalMemory : Prop :=
  (∀ (w : Nat) (dflt : Nat → BitVec w) (c : Cells w), Cells.wf dflt c = true ↔
    (c.map Prod.fst).Pairwise (· < ·) ∧ ∀ e ∈ c, e.2 ≠ dflt e.1) ∧
  (∀ (w : Nat) (c : Cells w) (i : Nat), c.at i = ((c.find? (fun e => e.1 == i)).map Prod.snd).getD 0 ∧
    (zeroCell i : BitVec w) = 0) ∧
  ∀ s t : State, step s = .next t → s.memoryWf = true → t.memoryWf = true

/-- Every step keeps the agreement of the cycle manager with the loop state, the open record and the close
computation. -/
def Obligations.StepKeepsCycleCoherent : Prop :=
  ∀ s t : State, step s = .next t → s.idleTogether → s.cycleCoherent → t.idleTogether ∧ t.cycleCoherent

/-- Every step keeps a pending request and a pending trip apart, what waits for a boundary inside a cycle, and the ports
in EXECUTING matched to the owners' pending work, in states in which the manager and the loop agree
(StepKeepsCycleCoherent). -/
def Obligations.StepKeepsExecutionsHeld : Prop :=
  ∀ s t : State, step s = .next t → s.idleTogether → s.cycleCoherent → s.oneLoopChange → s.waitsInCycle →
    s.executionsHeld → t.oneLoopChange ∧ t.waitsInCycle ∧ t.executionsHeld

/-- The state after reset meets every invariant. -/
def Obligations.ResetMeetsInvariants : Prop :=
  State.reset.queuesBounded ∧ State.reset.telemetryBounded ∧ State.reset.stagingBounded ∧ State.reset.agesBounded ∧
    State.reset.memoryWf = true ∧ State.reset.idleTogether ∧ State.reset.cycleCoherent ∧ State.reset.oneLoopChange ∧
    State.reset.waitsInCycle ∧ State.reset.executionsHeld
end

