-- ==== Sys2Proof/Laws/Cells.lean ====
section
/-!
SUPPORT. The laws of arrays of words: what a read gives after each operation, and that every operation keeps the
canonical form.
-/
namespace Sys2Proof.Machine

variable {w : Nat} (dflt : Nat → BitVec w)

/-! ## Reads -/

@[simp] theorem Cells.read_nil (k : Nat) : Cells.read dflt [] k = dflt k := rfl

@[simp] theorem Cells.at_nil (k : Nat) : Cells.at ([] : Cells w) k = 0 := rfl

/-- A read gives the value listed for its index, and the default where none is listed. -/
theorem Cells.read_eq_find (c : Cells w) (k : Nat) :
    Cells.read dflt c k = ((c.find? (fun e => e.1 == k)).map Prod.snd).getD (dflt k) := by
  induction c with
  | nil => rfl
  | cons e c ih =>
    rw [Cells.read, List.find?_cons]
    by_cases h : e.1 = k
    · simp [h]
    · rw [if_neg h, ih, beq_eq_false_iff_ne.2 h]

/-- Below the first listed index an array reads as its default. -/
theorem Cells.read_of_lt (lo : Nat) (c : Cells w) (h : Cells.wfFrom dflt lo c = true) (k : Nat) (hk : k < lo) :
    Cells.read dflt c k = dflt k := by
  induction c generalizing lo with
  | nil => rfl
  | cons e rest ih =>
    simp only [Cells.wfFrom, Bool.and_eq_true, decide_eq_true_eq] at h
    have hne : e.1 ≠ k := by omega
    rw [Cells.read, if_neg hne]
    exact ih (e.1 + 1) h.2 (by omega)

/-- A write is read back at its index, and every other index reads as before. -/
theorem Cells.read_write_from (lo : Nat) (c : Cells w) (h : Cells.wfFrom dflt lo c = true) (i k : Nat) (x : BitVec w) :
    Cells.read dflt (Cells.write dflt c i x) k = if k = i then x else Cells.read dflt c k := by
  induction c generalizing lo with
  | nil =>
    simp only [Cells.write]
    by_cases hx : x = dflt i
    · rw [if_pos hx]; by_cases hk : k = i
      · subst hk; simp [hx]
      · simp [hk]
    · rw [if_neg hx]; by_cases hk : k = i
      · subst hk; simp [Cells.read]
      · simp [Cells.read, hk, Ne.symm hk]
  | cons e rest ih =>
    obtain ⟨j, y⟩ := e
    simp only [Cells.wfFrom, Bool.and_eq_true, decide_eq_true_eq] at h
    have hrest : ∀ m, m ≤ j → Cells.read dflt rest m = dflt m :=
      fun m hm => Cells.read_of_lt dflt (j + 1) rest h.2 m (by omega)
    simp only [Cells.write]
    by_cases h1 : i < j
    · rw [if_pos h1]
      have hji : ¬ j = i := by omega
      by_cases hx : x = dflt i
      · rw [if_pos hx]; by_cases hk : k = i
        · subst hk; simp [Cells.read, hji, hrest k (by omega), hx]
        · simp [hk]
      · rw [if_neg hx]; by_cases hk : k = i
        · subst hk; simp [Cells.read]
        · simp [Cells.read, hk, Ne.symm hk]
    · rw [if_neg h1]
      by_cases h2 : i = j
      · subst h2
        rw [if_pos rfl]
        by_cases hx : x = dflt i
        · rw [if_pos hx]; by_cases hk : k = i
          · subst hk; simp [hrest k (le_refl k), hx]
          · simp [Cells.read, hk, Ne.symm hk]
        · rw [if_neg hx]; by_cases hk : k = i
          · subst hk; simp [Cells.read]
          · simp [Cells.read, hk, Ne.symm hk]
      · rw [if_neg h2]
        simp only [Cells.read]
        by_cases hk : j = k
        · have : ¬ k = i := by omega
          simp [hk, this]
        · rw [if_neg hk, ih (j + 1) h.2]; simp [hk]

/-- A write is read back at its index, and every other index reads as before. -/
theorem Cells.read_write (c : Cells w) (h : Cells.wf dflt c = true) (i k : Nat) (x : BitVec w) :
    Cells.read dflt (Cells.write dflt c i x) k = if k = i then x else Cells.read dflt c k :=
  Cells.read_write_from dflt 0 c h i k x

/-! ## The canonical form -/

theorem Cells.wfFrom_mono {lo lo' : Nat} (c : Cells w) (hl : lo' ≤ lo) (h : Cells.wfFrom dflt lo c = true) :
    Cells.wfFrom dflt lo' c = true := by
  cases c with
  | nil => rfl
  | cons e rest =>
    simp only [Cells.wfFrom, Bool.and_eq_true, decide_eq_true_eq] at h ⊢
    exact ⟨⟨by omega, h.1.2⟩, h.2⟩

theorem Cells.wfFrom_write (lo : Nat) (c : Cells w) (i : Nat) (x : BitVec w) (hi : lo ≤ i)
    (h : Cells.wfFrom dflt lo c = true) : Cells.wfFrom dflt lo (Cells.write dflt c i x) = true := by
  induction c generalizing lo with
  | nil =>
    simp only [Cells.write]; split
    · rfl
    · next hx => simp [Cells.wfFrom, hi, hx]
  | cons e rest ih =>
    obtain ⟨j, y⟩ := e
    have h' := h
    simp only [Cells.wfFrom, Bool.and_eq_true, decide_eq_true_eq] at h
    simp only [Cells.write]
    split
    · next h1 =>
      split
      · exact h'
      · next hx =>
        simp only [Cells.wfFrom, Bool.and_eq_true, decide_eq_true_eq]
        exact ⟨⟨hi, by simpa using hx⟩, ⟨⟨by omega, h.1.2⟩, h.2⟩⟩
    · split
      · next h1 h2 =>
        subst h2
        split
        · exact Cells.wfFrom_mono dflt rest (by omega) h.2
        · next hx =>
          simp only [Cells.wfFrom, Bool.and_eq_true, decide_eq_true_eq]
          exact ⟨⟨hi, by simpa using hx⟩, h.2⟩
      · next h1 h2 =>
        simp only [Cells.wfFrom, Bool.and_eq_true, decide_eq_true_eq]
        exact ⟨h.1, ih (j + 1) (by omega) h.2⟩

/-- The canonical form from an index upward, in terms of the entries. -/
theorem Cells.wfFrom_iff (lo : Nat) (c : Cells w) : Cells.wfFrom dflt lo c = true ↔
    (c.map Prod.fst).Pairwise (· < ·) ∧ (∀ e ∈ c, lo ≤ e.1) ∧ ∀ e ∈ c, e.2 ≠ dflt e.1 := by
  induction c generalizing lo with
  | nil => simp [Cells.wfFrom]
  | cons e c ih =>
    simp only [Cells.wfFrom, Bool.and_eq_true, decide_eq_true_eq, bne_iff_ne, ih, List.map_cons, List.pairwise_cons,
      List.mem_cons, List.mem_map, forall_eq_or_imp, forall_exists_index, and_imp, forall_apply_eq_imp_iff₂]
    constructor
    · rintro ⟨⟨h1, h2⟩, h3, h4, h5⟩
      exact ⟨⟨fun a ha => h4 a ha, h3⟩, ⟨h1, fun a ha => by have := h4 a ha; omega⟩, h2, h5⟩
    · rintro ⟨⟨h1, h2⟩, ⟨h3, h4⟩, h5, h6⟩
      exact ⟨⟨h3, h5⟩, h2, fun a ha => h1 a ha, h6⟩

/-- The canonical form: indices strictly rising, and no entry equal to the default. -/
theorem Cells.wf_iff (c : Cells w) : Cells.wf dflt c = true ↔
    (c.map Prod.fst).Pairwise (· < ·) ∧ ∀ e ∈ c, e.2 ≠ dflt e.1 := by
  simp [Cells.wf, Cells.wfFrom_iff]

/-- The empty array is in canonical form. -/
@[simp] theorem Cells.wf_nil : Cells.wf dflt [] = true := rfl

/-- A write keeps the canonical form. -/
theorem Cells.wf_write (c : Cells w) (i : Nat) (x : BitVec w) (h : Cells.wf dflt c = true) :
    Cells.wf dflt (Cells.write dflt c i x) = true := Cells.wfFrom_write dflt 0 c i x (Nat.zero_le i) h

/-- Writing a list of words keeps the canonical form. -/
theorem Cells.wf_writeList (c : Cells w) (i : Nat) (xs : List (BitVec w)) (h : Cells.wf dflt c = true) :
    Cells.wf dflt (Cells.writeList dflt c i xs) = true := by
  induction xs generalizing c i with
  | nil => exact h
  | cons x xs ih => exact ih _ _ (Cells.wf_write dflt c i x h)

/-- What an array reads as after a list of words is written. -/
theorem Cells.read_writeList (c : Cells w) (i k : Nat) (xs : List (BitVec w)) (h : Cells.wf dflt c = true) :
    Cells.read dflt (Cells.writeList dflt c i xs) k =
      if i ≤ k ∧ k < i + xs.length then xs.getD (k - i) 0 else Cells.read dflt c k := by
  induction xs generalizing c i with
  | nil =>
    have : ¬ (i ≤ k ∧ k < i + 0) := by omega
    rw [List.length_nil, if_neg this]; rfl
  | cons x xs ih =>
    rw [Cells.writeList, ih _ _ (Cells.wf_write dflt c i x h), Cells.read_write dflt c h]
    by_cases h1 : k = i
    · subst h1
      simp
    · by_cases h2 : i + 1 ≤ k ∧ k < i + 1 + xs.length
      · have h3 : i ≤ k ∧ k < i + (xs.length + 1) := by omega
        have h4 : k - i = (k - (i + 1)) + 1 := by omega
        simp [h2, h3, h4]
      · have h3 : ¬ (i ≤ k ∧ k < i + (xs.length + 1)) := by omega
        rw [if_neg h2, if_neg h1, List.length_cons, if_neg h3]

theorem Cells.wfFrom_filter (lo : Nat) (c : Cells w) (p : Nat × BitVec w → Bool) (h : Cells.wfFrom dflt lo c = true) :
    Cells.wfFrom dflt lo (c.filter p) = true := by
  induction c generalizing lo with
  | nil => rfl
  | cons e rest ih =>
    simp only [Cells.wfFrom, Bool.and_eq_true, decide_eq_true_eq] at h
    rw [List.filter_cons]
    split
    · simp only [Cells.wfFrom, Bool.and_eq_true, decide_eq_true_eq]; exact ⟨h.1, ih _ h.2⟩
    · exact Cells.wfFrom_mono dflt _ (by omega) (ih _ h.2)

/-- Clearing a range keeps the canonical form. -/
theorem Cells.wf_clearRange (lo n : Nat) (c : Cells w) (h : Cells.wf zeroCell c = true) :
    Cells.wf zeroCell (Cells.clearRange lo n c) = true := Cells.wfFrom_filter zeroCell 0 c _ h

/-- What an array reads as after a range is cleared. -/
theorem Cells.at_clearRange (lo n k : Nat) (c : Cells w) :
    (Cells.clearRange lo n c).at k = if lo ≤ k ∧ k < lo + n then 0 else c.at k := by
  unfold Cells.at
  induction c with
  | nil => simp [Cells.clearRange, Cells.read, zeroCell]
  | cons e rest ih =>
    obtain ⟨j, y⟩ := e
    unfold Cells.clearRange at ih ⊢
    rw [List.filter_cons]
    by_cases hj : lo ≤ j ∧ j < lo + n
    · have hp : (!(decide (lo ≤ j) && decide (j < lo + n))) = false := by simp [hj.1, hj.2]
      simp only [hp, Bool.false_eq_true, if_false]
      rw [ih]
      by_cases hk : j = k
      · subst hk; simp [hj]
      · simp [Cells.read, hk]
    · have hp : (!(decide (lo ≤ j) && decide (j < lo + n))) = true := by simp; omega
      simp only [hp, if_true, Cells.read]
      by_cases hk : j = k
      · subst hk; simp [hj]
      · simp only [if_neg hk]; exact ih

theorem Cells.wfFrom_tabulateFrom (f : Nat → BitVec w) (lo n : Nat) :
    Cells.wfFrom zeroCell lo (Cells.tabulateFrom f lo n) = true := by
  induction n generalizing lo with
  | zero => rfl
  | succ n ih =>
    rw [Cells.tabulateFrom]
    split
    · exact Cells.wfFrom_mono zeroCell _ (by omega) (ih (lo + 1))
    · next hz =>
      simp only [Cells.wfFrom, Bool.and_eq_true, decide_eq_true_eq]
      exact ⟨⟨le_refl lo, by simpa [zeroCell] using hz⟩, ih (lo + 1)⟩

/-- A tabulated array is in canonical form. -/
@[simp] theorem Cells.wf_tabulate (n : Nat) (f : Nat → BitVec w) : Cells.wf zeroCell (Cells.tabulate n f) = true :=
  Cells.wfFrom_tabulateFrom f 0 n

theorem Cells.at_tabulateFrom (f : Nat → BitVec w) (lo n k : Nat) :
    (Cells.tabulateFrom f lo n).at k = if lo ≤ k ∧ k < lo + n then f k else 0 := by
  induction n generalizing lo with
  | zero =>
    have : ¬ (lo ≤ k ∧ k < lo + 0) := by omega
    rw [if_neg this]; rfl
  | succ n ih =>
    rw [Cells.tabulateFrom]
    by_cases hk : k = lo
    · subst hk
      split
      · next hz =>
        have : ¬ (k + 1 ≤ k ∧ k < k + 1 + n) := by omega
        rw [ih, if_neg this]; simp [hz]
      · simp [Cells.at, Cells.read]
    · have hiff : (lo + 1 ≤ k ∧ k < lo + 1 + n) ↔ (lo ≤ k ∧ k < lo + (n + 1)) := by omega
      split
      · rw [ih]; simp only [hiff]
      · rw [Cells.at, Cells.read, if_neg (Ne.symm hk)]
        have := ih (lo + 1)
        rw [Cells.at] at this
        rw [this]; simp only [hiff]

/-- What a tabulated array reads as. -/
@[simp] theorem Cells.at_tabulate (n k : Nat) (f : Nat → BitVec w) :
    (Cells.tabulate n f).at k = if k < n then f k else 0 := by
  rw [Cells.tabulate, Cells.at_tabulateFrom]; simp

/-! ## Stores -/

@[simp] theorem Stores.get_set_self (c : Stores) (id : StoreId) (x : Cells 16) : (c.set id x).get id = x := by
  cases id <;> rfl

theorem Stores.get_set_ne (c : Stores) {id k : StoreId} (x : Cells 16) (h : k ≠ id) :
    (c.set id x).get k = c.get k := by
  cases id <;> cases k <;> first | rfl | exact absurd rfl h

end Sys2Proof.Machine
end

