-- ==== Sys2Proof/Laws/Families.lean ====
section
/-!
SUPPORT. Laws of the fixed-size families: what reading one member gives after one member is written, after all are
mapped, and for a tabulated family.
-/
namespace Sys2Proof

/-! ## Quad -/

theorem Quad.forall_iff {P : LinkId → Prop} : (∀ l, P l) ↔ P 0 ∧ P 1 ∧ P 2 ∧ P 3 := by
  constructor
  · intro h; exact ⟨h 0, h 1, h 2, h 3⟩
  · rintro ⟨h0, h1, h2, h3⟩ l; match l with
    | 0 => exact h0
    | 1 => exact h1
    | 2 => exact h2
    | 3 => exact h3

@[simp] theorem Quad.get_set_self {α : Type} (q : Quad α) (l : LinkId) (x : α) : (q.set l x).get l = x := by
  match l with
  | 0 => rfl
  | 1 => rfl
  | 2 => rfl
  | 3 => rfl

theorem Quad.get_set_ne {α : Type} (q : Quad α) {l k : LinkId} (x : α) (h : k ≠ l) : (q.set l x).get k = q.get k := by
  revert h
  match l, k with
  | 0, 0 => intro h; exact absurd rfl h
  | 0, 1 => intro _; rfl
  | 0, 2 => intro _; rfl
  | 0, 3 => intro _; rfl
  | 1, 0 => intro _; rfl
  | 1, 1 => intro h; exact absurd rfl h
  | 1, 2 => intro _; rfl
  | 1, 3 => intro _; rfl
  | 2, 0 => intro _; rfl
  | 2, 1 => intro _; rfl
  | 2, 2 => intro h; exact absurd rfl h
  | 2, 3 => intro _; rfl
  | 3, 0 => intro _; rfl
  | 3, 1 => intro _; rfl
  | 3, 2 => intro _; rfl
  | 3, 3 => intro h; exact absurd rfl h

theorem Quad.get_set {α : Type} (q : Quad α) (l k : LinkId) (x : α) :
    (q.set l x).get k = if k = l then x else q.get k := by
  by_cases h : k = l
  · subst h; simp
  · simp [h, Quad.get_set_ne]

@[simp] theorem Quad.get_tabulate {α : Type} (f : LinkId → α) (l : LinkId) : (Quad.tabulate f).get l = f l := by
  match l with
  | 0 => rfl
  | 1 => rfl
  | 2 => rfl
  | 3 => rfl

@[simp] theorem Quad.get_fill {α : Type} (x : α) (l : LinkId) : (Quad.fill x).get l = x := by
  match l with
  | 0 => rfl
  | 1 => rfl
  | 2 => rfl
  | 3 => rfl

@[simp] theorem Quad.get_map {α β : Type} (f : α → β) (q : Quad α) (l : LinkId) : (q.map f).get l = f (q.get l) := by
  match l with
  | 0 => rfl
  | 1 => rfl
  | 2 => rfl
  | 3 => rfl

theorem Quad.ext_get {α : Type} {p q : Quad α} (h : ∀ l, p.get l = q.get l) : p = q := by
  obtain ⟨p0, p1, p2, p3⟩ := p
  obtain ⟨q0, q1, q2, q3⟩ := q
  have h0 := h 0
  have h1 := h 1
  have h2 := h 2
  have h3 := h 3
  simp only [Quad.get] at h0 h1 h2 h3
  subst h0; subst h1; subst h2; subst h3; rfl

@[simp] theorem Quad.set_get_self {α : Type} (q : Quad α) (l : LinkId) : q.set l (q.get l) = q := by
  apply Quad.ext_get; intro k; rw [Quad.get_set]; split
  · next h => rw [h]
  · rfl

@[simp] theorem Quad.set_set {α : Type} (q : Quad α) (l : LinkId) (x y : α) : (q.set l x).set l y = q.set l y := by
  apply Quad.ext_get; intro k; simp only [Quad.get_set]; split <;> rfl

@[simp] theorem Machine.quadModify_get_self {α : Type} (q : Quad α) (l : LinkId) (f : α → α) :
    (Machine.quadModify q l f).get l = f (q.get l) := by simp [Machine.quadModify]

theorem Machine.quadModify_get_ne {α : Type} (q : Quad α) {l k : LinkId} (f : α → α) (h : k ≠ l) :
    (Machine.quadModify q l f).get k = q.get k := Quad.get_set_ne q _ h

theorem Machine.quadModify_get {α : Type} (q : Quad α) (l k : LinkId) (f : α → α) :
    (Machine.quadModify q l f).get k = if k = l then f (q.get k) else q.get k := by
  rw [Machine.quadModify, Quad.get_set]; split
  · next h => rw [h]
  · rfl

@[simp] theorem Machine.quadModify_modify {α : Type} (q : Quad α) (l : LinkId) (f g : α → α) :
    Machine.quadModify (Machine.quadModify q l f) l g = Machine.quadModify q l (fun x => g (f x)) := by
  simp [Machine.quadModify]

@[simp] theorem Machine.quadModify_id {α : Type} (q : Quad α) (l : LinkId) :
    Machine.quadModify q l (fun x => x) = q := by simp [Machine.quadModify]

/-! ## Octet -/

@[simp] theorem Octet.get_fill {α : Type} (x : α) (b : BoardId) : (Octet.fill x).get b = x := by
  fin_cases b <;> rfl

@[simp] theorem Octet.get_set_self {α : Type} (q : Octet α) (b : BoardId) (x : α) : (q.set b x).get b = x := by
  fin_cases b <;> rfl

theorem Octet.get_set_ne {α : Type} (q : Octet α) {b c : BoardId} (x : α) (h : c ≠ b) : (q.set b x).get c = q.get c := by
  fin_cases b <;> fin_cases c <;> first | rfl | exact absurd rfl h

/-! ## Pair -/

@[simp] theorem PortId.other_ne (p : PortId) : p.other ≠ p := by cases p <;> decide

@[simp] theorem PortId.other_other (p : PortId) : p.other.other = p := by cases p <;> rfl

theorem PortId.eq_other_of_ne {p q : PortId} (h : q ≠ p) : q = p.other := by
  cases p <;> cases q <;> first | rfl | exact absurd rfl h

@[simp] theorem Pair.get_set_self {α : Type} (q : Pair α) (p : PortId) (x : α) : (q.set p x).get p = x := by
  cases p <;> rfl

theorem Pair.get_set_ne {α : Type} (q : Pair α) {p r : PortId} (x : α) (h : r ≠ p) : (q.set p x).get r = q.get r := by
  cases p <;> cases r <;> first | rfl | exact absurd rfl h

@[simp] theorem Pair.get_set_other {α : Type} (q : Pair α) (p : PortId) (x : α) :
    (q.set p x).get p.other = q.get p.other := by cases p <;> rfl

theorem Pair.get_set {α : Type} (q : Pair α) (p r : PortId) (x : α) :
    (q.set p x).get r = if r = p then x else q.get r := by
  cases p <;> cases r <;> rfl

@[simp] theorem Pair.get_map {α β : Type} (f : α → β) (q : Pair α) (p : PortId) : (q.map f).get p = f (q.get p) := by
  cases p <;> rfl

@[simp] theorem Pair.set_set {α : Type} (q : Pair α) (p : PortId) (x y : α) : (q.set p x).set p y = q.set p y := by
  cases p <;> rfl

@[simp] theorem Pair.set_get_self {α : Type} (q : Pair α) (p : PortId) : q.set p (q.get p) = q := by cases p <;> rfl

theorem Pair.ext_get {α : Type} {p q : Pair α} (h : ∀ r, p.get r = q.get r) : p = q := by
  obtain ⟨pa, pb⟩ := p
  obtain ⟨qa, qb⟩ := q
  have hA := h .A
  have hB := h .B
  simp only [Pair.get] at hA hB
  subst hA; subst hB; rfl

theorem Pair.forall_iff {P : PortId → Prop} : (∀ p, P p) ↔ P .A ∧ P .B := by
  constructor
  · intro h; exact ⟨h .A, h .B⟩
  · rintro ⟨hA, hB⟩ p; cases p
    · exact hA
    · exact hB

end Sys2Proof
end

