-- ==== Sys2Proof/Laws/State.lean ====
section
/-!
SUPPORT. What each named update of the state changes and what it keeps: one law per update and field, true by
definition, so that no proof unfolds a record update.
-/
namespace Sys2Proof.Machine

/-! ## onReceiver -/

@[simp] theorem State.onReceiver_pending (s : State) (l : LinkId) (f : Receiver → Receiver) :
    (s.onReceiver l f).pending = s.pending := rfl
@[simp] theorem State.onReceiver_resetActs (s : State) (l : LinkId) (f : Receiver → Receiver) :
    (s.onReceiver l f).resetActs = s.resetActs := rfl
@[simp] theorem State.onReceiver_line (s : State) (l : LinkId) (f : Receiver → Receiver) :
    (s.onReceiver l f).line = s.line := rfl
@[simp] theorem State.onReceiver_manager (s : State) (l : LinkId) (f : Receiver → Receiver) :
    (s.onReceiver l f).manager = s.manager := rfl
@[simp] theorem State.onReceiver_receivers (s : State) (l : LinkId) (f : Receiver → Receiver) :
    (s.onReceiver l f).receivers = quadModify s.receivers l f := rfl
@[simp] theorem State.onReceiver_slots (s : State) (l : LinkId) (f : Receiver → Receiver) :
    (s.onReceiver l f).slots = s.slots := rfl
@[simp] theorem State.onReceiver_engine (s : State) (l : LinkId) (f : Receiver → Receiver) :
    (s.onReceiver l f).engine = s.engine := rfl
@[simp] theorem State.onReceiver_stores (s : State) (l : LinkId) (f : Receiver → Receiver) :
    (s.onReceiver l f).stores = s.stores := rfl
@[simp] theorem State.onReceiver_command (s : State) (l : LinkId) (f : Receiver → Receiver) :
    (s.onReceiver l f).command = s.command := rfl
@[simp] theorem State.onReceiver_loop (s : State) (l : LinkId) (f : Receiver → Receiver) :
    (s.onReceiver l f).loop = s.loop := rfl
@[simp] theorem State.onReceiver_probe (s : State) (l : LinkId) (f : Receiver → Receiver) :
    (s.onReceiver l f).probe = s.probe := rfl
@[simp] theorem State.onReceiver_mirror (s : State) (l : LinkId) (f : Receiver → Receiver) :
    (s.onReceiver l f).mirror = s.mirror := rfl
@[simp] theorem State.onReceiver_ports (s : State) (l : LinkId) (f : Receiver → Receiver) :
    (s.onReceiver l f).ports = s.ports := rfl
@[simp] theorem State.onReceiver_capture (s : State) (l : LinkId) (f : Receiver → Receiver) :
    (s.onReceiver l f).capture = s.capture := rfl
@[simp] theorem State.onReceiver_offload (s : State) (l : LinkId) (f : Receiver → Receiver) :
    (s.onReceiver l f).offload = s.offload := rfl

/-! ## onSlot -/

@[simp] theorem State.onSlot_pending (s : State) (l : LinkId) (f : Slot → Slot) :
    (s.onSlot l f).pending = s.pending := rfl
@[simp] theorem State.onSlot_resetActs (s : State) (l : LinkId) (f : Slot → Slot) :
    (s.onSlot l f).resetActs = s.resetActs := rfl
@[simp] theorem State.onSlot_line (s : State) (l : LinkId) (f : Slot → Slot) : (s.onSlot l f).line = s.line := rfl
@[simp] theorem State.onSlot_manager (s : State) (l : LinkId) (f : Slot → Slot) :
    (s.onSlot l f).manager = s.manager := rfl
@[simp] theorem State.onSlot_receivers (s : State) (l : LinkId) (f : Slot → Slot) :
    (s.onSlot l f).receivers = s.receivers := rfl
@[simp] theorem State.onSlot_slots (s : State) (l : LinkId) (f : Slot → Slot) :
    (s.onSlot l f).slots = quadModify s.slots l f := rfl
@[simp] theorem State.onSlot_engine (s : State) (l : LinkId) (f : Slot → Slot) : (s.onSlot l f).engine = s.engine := rfl
@[simp] theorem State.onSlot_stores (s : State) (l : LinkId) (f : Slot → Slot) : (s.onSlot l f).stores = s.stores := rfl
@[simp] theorem State.onSlot_command (s : State) (l : LinkId) (f : Slot → Slot) :
    (s.onSlot l f).command = s.command := rfl
@[simp] theorem State.onSlot_loop (s : State) (l : LinkId) (f : Slot → Slot) : (s.onSlot l f).loop = s.loop := rfl
@[simp] theorem State.onSlot_probe (s : State) (l : LinkId) (f : Slot → Slot) : (s.onSlot l f).probe = s.probe := rfl
@[simp] theorem State.onSlot_mirror (s : State) (l : LinkId) (f : Slot → Slot) : (s.onSlot l f).mirror = s.mirror := rfl
@[simp] theorem State.onSlot_ports (s : State) (l : LinkId) (f : Slot → Slot) : (s.onSlot l f).ports = s.ports := rfl
@[simp] theorem State.onSlot_capture (s : State) (l : LinkId) (f : Slot → Slot) :
    (s.onSlot l f).capture = s.capture := rfl
@[simp] theorem State.onSlot_offload (s : State) (l : LinkId) (f : Slot → Slot) :
    (s.onSlot l f).offload = s.offload := rfl

/-! ## onManager -/

@[simp] theorem State.onManager_pending (s : State) (f : Manager → Manager) : (s.onManager f).pending = s.pending := rfl
@[simp] theorem State.onManager_resetActs (s : State) (f : Manager → Manager) :
    (s.onManager f).resetActs = s.resetActs := rfl
@[simp] theorem State.onManager_line (s : State) (f : Manager → Manager) : (s.onManager f).line = s.line := rfl
@[simp] theorem State.onManager_manager (s : State) (f : Manager → Manager) :
    (s.onManager f).manager = f s.manager := rfl
@[simp] theorem State.onManager_receivers (s : State) (f : Manager → Manager) :
    (s.onManager f).receivers = s.receivers := rfl
@[simp] theorem State.onManager_slots (s : State) (f : Manager → Manager) : (s.onManager f).slots = s.slots := rfl
@[simp] theorem State.onManager_engine (s : State) (f : Manager → Manager) : (s.onManager f).engine = s.engine := rfl
@[simp] theorem State.onManager_stores (s : State) (f : Manager → Manager) : (s.onManager f).stores = s.stores := rfl
@[simp] theorem State.onManager_command (s : State) (f : Manager → Manager) : (s.onManager f).command = s.command := rfl
@[simp] theorem State.onManager_loop (s : State) (f : Manager → Manager) : (s.onManager f).loop = s.loop := rfl
@[simp] theorem State.onManager_probe (s : State) (f : Manager → Manager) : (s.onManager f).probe = s.probe := rfl
@[simp] theorem State.onManager_mirror (s : State) (f : Manager → Manager) : (s.onManager f).mirror = s.mirror := rfl
@[simp] theorem State.onManager_ports (s : State) (f : Manager → Manager) : (s.onManager f).ports = s.ports := rfl
@[simp] theorem State.onManager_capture (s : State) (f : Manager → Manager) : (s.onManager f).capture = s.capture := rfl
@[simp] theorem State.onManager_offload (s : State) (f : Manager → Manager) : (s.onManager f).offload = s.offload := rfl

/-! ## onManagerCounters -/

@[simp] theorem State.onManagerCounters_pending (s : State) (f : ManagerCounters → ManagerCounters) :
    (s.onManagerCounters f).pending = s.pending := rfl
@[simp] theorem State.onManagerCounters_resetActs (s : State) (f : ManagerCounters → ManagerCounters) :
    (s.onManagerCounters f).resetActs = s.resetActs := rfl
@[simp] theorem State.onManagerCounters_line (s : State) (f : ManagerCounters → ManagerCounters) :
    (s.onManagerCounters f).line = s.line := rfl
@[simp] theorem State.onManagerCounters_manager (s : State) (f : ManagerCounters → ManagerCounters) :
    (s.onManagerCounters f).manager = { s.manager with counters := f s.manager.counters } := rfl
@[simp] theorem State.onManagerCounters_receivers (s : State) (f : ManagerCounters → ManagerCounters) :
    (s.onManagerCounters f).receivers = s.receivers := rfl
@[simp] theorem State.onManagerCounters_slots (s : State) (f : ManagerCounters → ManagerCounters) :
    (s.onManagerCounters f).slots = s.slots := rfl
@[simp] theorem State.onManagerCounters_engine (s : State) (f : ManagerCounters → ManagerCounters) :
    (s.onManagerCounters f).engine = s.engine := rfl
@[simp] theorem State.onManagerCounters_stores (s : State) (f : ManagerCounters → ManagerCounters) :
    (s.onManagerCounters f).stores = s.stores := rfl
@[simp] theorem State.onManagerCounters_command (s : State) (f : ManagerCounters → ManagerCounters) :
    (s.onManagerCounters f).command = s.command := rfl
@[simp] theorem State.onManagerCounters_loop (s : State) (f : ManagerCounters → ManagerCounters) :
    (s.onManagerCounters f).loop = s.loop := rfl
@[simp] theorem State.onManagerCounters_probe (s : State) (f : ManagerCounters → ManagerCounters) :
    (s.onManagerCounters f).probe = s.probe := rfl
@[simp] theorem State.onManagerCounters_mirror (s : State) (f : ManagerCounters → ManagerCounters) :
    (s.onManagerCounters f).mirror = s.mirror := rfl
@[simp] theorem State.onManagerCounters_ports (s : State) (f : ManagerCounters → ManagerCounters) :
    (s.onManagerCounters f).ports = s.ports := rfl
@[simp] theorem State.onManagerCounters_capture (s : State) (f : ManagerCounters → ManagerCounters) :
    (s.onManagerCounters f).capture = s.capture := rfl
@[simp] theorem State.onManagerCounters_offload (s : State) (f : ManagerCounters → ManagerCounters) :
    (s.onManagerCounters f).offload = s.offload := rfl

/-! ## onPort -/

@[simp] theorem State.onPort_pending (s : State) (p : PortId) (f : Port → Port) :
    (s.onPort p f).pending = s.pending := rfl
@[simp] theorem State.onPort_resetActs (s : State) (p : PortId) (f : Port → Port) :
    (s.onPort p f).resetActs = s.resetActs := rfl
@[simp] theorem State.onPort_line (s : State) (p : PortId) (f : Port → Port) : (s.onPort p f).line = s.line := rfl
@[simp] theorem State.onPort_manager (s : State) (p : PortId) (f : Port → Port) :
    (s.onPort p f).manager = s.manager := rfl
@[simp] theorem State.onPort_receivers (s : State) (p : PortId) (f : Port → Port) :
    (s.onPort p f).receivers = s.receivers := rfl
@[simp] theorem State.onPort_slots (s : State) (p : PortId) (f : Port → Port) : (s.onPort p f).slots = s.slots := rfl
@[simp] theorem State.onPort_engine (s : State) (p : PortId) (f : Port → Port) : (s.onPort p f).engine = s.engine := rfl
@[simp] theorem State.onPort_stores (s : State) (p : PortId) (f : Port → Port) : (s.onPort p f).stores = s.stores := rfl
@[simp] theorem State.onPort_command (s : State) (p : PortId) (f : Port → Port) :
    (s.onPort p f).command = s.command := rfl
@[simp] theorem State.onPort_loop (s : State) (p : PortId) (f : Port → Port) : (s.onPort p f).loop = s.loop := rfl
@[simp] theorem State.onPort_probe (s : State) (p : PortId) (f : Port → Port) : (s.onPort p f).probe = s.probe := rfl
@[simp] theorem State.onPort_mirror (s : State) (p : PortId) (f : Port → Port) : (s.onPort p f).mirror = s.mirror := rfl
@[simp] theorem State.onPort_ports (s : State) (p : PortId) (f : Port → Port) :
    (s.onPort p f).ports = s.ports.set p (f (s.ports.get p)) := rfl
@[simp] theorem State.onPort_capture (s : State) (p : PortId) (f : Port → Port) :
    (s.onPort p f).capture = s.capture := rfl
@[simp] theorem State.onPort_offload (s : State) (p : PortId) (f : Port → Port) :
    (s.onPort p f).offload = s.offload := rfl

/-! ## post -/

@[simp] theorem State.post_pending (s : State) (e : EventSubject) : (s.post e).pending = s.pending := rfl
@[simp] theorem State.post_resetActs (s : State) (e : EventSubject) : (s.post e).resetActs = s.resetActs := rfl
@[simp] theorem State.post_line (s : State) (e : EventSubject) : (s.post e).line = s.line := rfl
@[simp] theorem State.post_manager (s : State) (e : EventSubject) : (s.post e).manager = s.manager := rfl
@[simp] theorem State.post_receivers (s : State) (e : EventSubject) : (s.post e).receivers = s.receivers := rfl
@[simp] theorem State.post_slots (s : State) (e : EventSubject) : (s.post e).slots = s.slots := rfl
@[simp] theorem State.post_engine (s : State) (e : EventSubject) : (s.post e).engine = s.engine := rfl
@[simp] theorem State.post_stores (s : State) (e : EventSubject) : (s.post e).stores = s.stores := rfl
@[simp] theorem State.post_command (s : State) (e : EventSubject) : (s.post e).command = s.command := rfl
@[simp] theorem State.post_loop (s : State) (e : EventSubject) : (s.post e).loop = s.loop := rfl
@[simp] theorem State.post_probe (s : State) (e : EventSubject) : (s.post e).probe = s.probe := rfl
@[simp] theorem State.post_mirror (s : State) (e : EventSubject) : (s.post e).mirror = s.mirror := rfl
@[simp] theorem State.post_ports (s : State) (e : EventSubject) :
    (s.post e).ports = s.ports.map (Port.takeEvent ⟨e, s.manager.cycle, s.manager.timebase⟩) := rfl
@[simp] theorem State.post_capture (s : State) (e : EventSubject) : (s.post e).capture = s.capture := rfl
@[simp] theorem State.post_offload (s : State) (e : EventSubject) : (s.post e).offload = s.offload := rfl

/-! ## answer -/

@[simp] theorem State.answer_pending (s : State) (p : PortId) (r : ResultRecord) :
    (s.answer p r).pending = s.pending := rfl
@[simp] theorem State.answer_resetActs (s : State) (p : PortId) (r : ResultRecord) :
    (s.answer p r).resetActs = s.resetActs := rfl
@[simp] theorem State.answer_line (s : State) (p : PortId) (r : ResultRecord) : (s.answer p r).line = s.line := rfl
@[simp] theorem State.answer_manager (s : State) (p : PortId) (r : ResultRecord) :
    (s.answer p r).manager = s.manager := rfl
@[simp] theorem State.answer_receivers (s : State) (p : PortId) (r : ResultRecord) :
    (s.answer p r).receivers = s.receivers := rfl
@[simp] theorem State.answer_slots (s : State) (p : PortId) (r : ResultRecord) : (s.answer p r).slots = s.slots := rfl
@[simp] theorem State.answer_engine (s : State) (p : PortId) (r : ResultRecord) :
    (s.answer p r).engine = s.engine := rfl
@[simp] theorem State.answer_stores (s : State) (p : PortId) (r : ResultRecord) :
    (s.answer p r).stores = s.stores := rfl
@[simp] theorem State.answer_command (s : State) (p : PortId) (r : ResultRecord) :
    (s.answer p r).command = s.command := rfl
@[simp] theorem State.answer_loop (s : State) (p : PortId) (r : ResultRecord) : (s.answer p r).loop = s.loop := rfl
@[simp] theorem State.answer_probe (s : State) (p : PortId) (r : ResultRecord) : (s.answer p r).probe = s.probe := rfl
@[simp] theorem State.answer_mirror (s : State) (p : PortId) (r : ResultRecord) :
    (s.answer p r).mirror = s.mirror := rfl
@[simp] theorem State.answer_ports (s : State) (p : PortId) (r : ResultRecord) :
    (s.answer p r).ports = s.ports.set p { s.ports.get p with activity := .result r 0 } := rfl
@[simp] theorem State.answer_capture (s : State) (p : PortId) (r : ResultRecord) :
    (s.answer p r).capture = s.capture := rfl
@[simp] theorem State.answer_offload (s : State) (p : PortId) (r : ResultRecord) :
    (s.answer p r).offload = s.offload := rfl

/-! ## reject -/

@[simp] theorem State.reject_pending (s : State) (p : PortId) (c : Byte) (r : Reason) :
    (s.reject p c r).pending = s.pending := rfl
@[simp] theorem State.reject_resetActs (s : State) (p : PortId) (c : Byte) (r : Reason) :
    (s.reject p c r).resetActs = s.resetActs := rfl
@[simp] theorem State.reject_line (s : State) (p : PortId) (c : Byte) (r : Reason) :
    (s.reject p c r).line = s.line := rfl
@[simp] theorem State.reject_manager (s : State) (p : PortId) (c : Byte) (r : Reason) :
    (s.reject p c r).manager = s.manager := rfl
@[simp] theorem State.reject_receivers (s : State) (p : PortId) (c : Byte) (r : Reason) :
    (s.reject p c r).receivers = s.receivers := rfl
@[simp] theorem State.reject_slots (s : State) (p : PortId) (c : Byte) (r : Reason) :
    (s.reject p c r).slots = s.slots := rfl
@[simp] theorem State.reject_engine (s : State) (p : PortId) (c : Byte) (r : Reason) :
    (s.reject p c r).engine = s.engine := rfl
@[simp] theorem State.reject_stores (s : State) (p : PortId) (c : Byte) (r : Reason) :
    (s.reject p c r).stores = s.stores := rfl
@[simp] theorem State.reject_command (s : State) (p : PortId) (c : Byte) (r : Reason) :
    (s.reject p c r).command = s.command := rfl
@[simp] theorem State.reject_loop (s : State) (p : PortId) (c : Byte) (r : Reason) :
    (s.reject p c r).loop = s.loop := rfl
@[simp] theorem State.reject_probe (s : State) (p : PortId) (c : Byte) (r : Reason) :
    (s.reject p c r).probe = s.probe := rfl
@[simp] theorem State.reject_mirror (s : State) (p : PortId) (c : Byte) (r : Reason) :
    (s.reject p c r).mirror = s.mirror := rfl
@[simp] theorem State.reject_ports (s : State) (p : PortId) (c : Byte) (r : Reason) :
    (s.reject p c r).ports = s.ports.set p { s.ports.get p with activity := .result ⟨c, .rejected, r, []⟩ 0 } := rfl
@[simp] theorem State.reject_capture (s : State) (p : PortId) (c : Byte) (r : Reason) :
    (s.reject p c r).capture = s.capture := rfl
@[simp] theorem State.reject_offload (s : State) (p : PortId) (c : Byte) (r : Reason) :
    (s.reject p c r).offload = s.offload := rfl

/-! ## complete -/

@[simp] theorem State.complete_pending (s : State) (p : PortId) (c : Byte) (d : List Byte) :
    (s.complete p c d).pending = s.pending := rfl
@[simp] theorem State.complete_resetActs (s : State) (p : PortId) (c : Byte) (d : List Byte) :
    (s.complete p c d).resetActs = s.resetActs := rfl
@[simp] theorem State.complete_line (s : State) (p : PortId) (c : Byte) (d : List Byte) :
    (s.complete p c d).line = s.line := rfl
@[simp] theorem State.complete_manager (s : State) (p : PortId) (c : Byte) (d : List Byte) :
    (s.complete p c d).manager = s.manager := rfl
@[simp] theorem State.complete_receivers (s : State) (p : PortId) (c : Byte) (d : List Byte) :
    (s.complete p c d).receivers = s.receivers := rfl
@[simp] theorem State.complete_slots (s : State) (p : PortId) (c : Byte) (d : List Byte) :
    (s.complete p c d).slots = s.slots := rfl
@[simp] theorem State.complete_engine (s : State) (p : PortId) (c : Byte) (d : List Byte) :
    (s.complete p c d).engine = s.engine := rfl
@[simp] theorem State.complete_stores (s : State) (p : PortId) (c : Byte) (d : List Byte) :
    (s.complete p c d).stores = s.stores := rfl
@[simp] theorem State.complete_command (s : State) (p : PortId) (c : Byte) (d : List Byte) :
    (s.complete p c d).command = s.command := rfl
@[simp] theorem State.complete_loop (s : State) (p : PortId) (c : Byte) (d : List Byte) :
    (s.complete p c d).loop = s.loop := rfl
@[simp] theorem State.complete_probe (s : State) (p : PortId) (c : Byte) (d : List Byte) :
    (s.complete p c d).probe = s.probe := rfl
@[simp] theorem State.complete_mirror (s : State) (p : PortId) (c : Byte) (d : List Byte) :
    (s.complete p c d).mirror = s.mirror := rfl
@[simp] theorem State.complete_ports (s : State) (p : PortId) (c : Byte) (d : List Byte) :
    (s.complete p c d).ports = s.ports.set p { s.ports.get p with activity := .result ⟨c, .complete, .none, d⟩ 0 } := rfl
@[simp] theorem State.complete_capture (s : State) (p : PortId) (c : Byte) (d : List Byte) :
    (s.complete p c d).capture = s.capture := rfl
@[simp] theorem State.complete_offload (s : State) (p : PortId) (c : Byte) (d : List Byte) :
    (s.complete p c d).offload = s.offload := rfl

/-! ## withdraw -/

@[simp] theorem State.withdraw_pending (s : State) (p : PortId) (c : Byte) (r : Reason) (d : List Byte) :
    (s.withdraw p c r d).pending = s.pending := rfl
@[simp] theorem State.withdraw_resetActs (s : State) (p : PortId) (c : Byte) (r : Reason) (d : List Byte) :
    (s.withdraw p c r d).resetActs = s.resetActs := rfl
@[simp] theorem State.withdraw_line (s : State) (p : PortId) (c : Byte) (r : Reason) (d : List Byte) :
    (s.withdraw p c r d).line = s.line := rfl
@[simp] theorem State.withdraw_manager (s : State) (p : PortId) (c : Byte) (r : Reason) (d : List Byte) :
    (s.withdraw p c r d).manager = s.manager := rfl
@[simp] theorem State.withdraw_receivers (s : State) (p : PortId) (c : Byte) (r : Reason) (d : List Byte) :
    (s.withdraw p c r d).receivers = s.receivers := rfl
@[simp] theorem State.withdraw_slots (s : State) (p : PortId) (c : Byte) (r : Reason) (d : List Byte) :
    (s.withdraw p c r d).slots = s.slots := rfl
@[simp] theorem State.withdraw_engine (s : State) (p : PortId) (c : Byte) (r : Reason) (d : List Byte) :
    (s.withdraw p c r d).engine = s.engine := rfl
@[simp] theorem State.withdraw_stores (s : State) (p : PortId) (c : Byte) (r : Reason) (d : List Byte) :
    (s.withdraw p c r d).stores = s.stores := rfl
@[simp] theorem State.withdraw_command (s : State) (p : PortId) (c : Byte) (r : Reason) (d : List Byte) :
    (s.withdraw p c r d).command = s.command := rfl
@[simp] theorem State.withdraw_loop (s : State) (p : PortId) (c : Byte) (r : Reason) (d : List Byte) :
    (s.withdraw p c r d).loop = s.loop := rfl
@[simp] theorem State.withdraw_probe (s : State) (p : PortId) (c : Byte) (r : Reason) (d : List Byte) :
    (s.withdraw p c r d).probe = s.probe := rfl
@[simp] theorem State.withdraw_mirror (s : State) (p : PortId) (c : Byte) (r : Reason) (d : List Byte) :
    (s.withdraw p c r d).mirror = s.mirror := rfl
@[simp] theorem State.withdraw_ports (s : State) (p : PortId) (c : Byte) (r : Reason) (d : List Byte) :
    (s.withdraw p c r d).ports = s.ports.set p { s.ports.get p with activity := .result ⟨c, .withdrawn, r, d⟩ 0 } := rfl
@[simp] theorem State.withdraw_capture (s : State) (p : PortId) (c : Byte) (r : Reason) (d : List Byte) :
    (s.withdraw p c r d).capture = s.capture := rfl
@[simp] theorem State.withdraw_offload (s : State) (p : PortId) (c : Byte) (r : Reason) (d : List Byte) :
    (s.withdraw p c r d).offload = s.offload := rfl

/-! ## execute -/

@[simp] theorem State.execute_pending (s : State) (p : PortId) (c : ExecutingCommand) :
    (s.execute p c).pending = s.pending := rfl
@[simp] theorem State.execute_resetActs (s : State) (p : PortId) (c : ExecutingCommand) :
    (s.execute p c).resetActs = s.resetActs := rfl
@[simp] theorem State.execute_line (s : State) (p : PortId) (c : ExecutingCommand) :
    (s.execute p c).line = s.line := rfl
@[simp] theorem State.execute_manager (s : State) (p : PortId) (c : ExecutingCommand) :
    (s.execute p c).manager = s.manager := rfl
@[simp] theorem State.execute_receivers (s : State) (p : PortId) (c : ExecutingCommand) :
    (s.execute p c).receivers = s.receivers := rfl
@[simp] theorem State.execute_slots (s : State) (p : PortId) (c : ExecutingCommand) :
    (s.execute p c).slots = s.slots := rfl
@[simp] theorem State.execute_engine (s : State) (p : PortId) (c : ExecutingCommand) :
    (s.execute p c).engine = s.engine := rfl
@[simp] theorem State.execute_stores (s : State) (p : PortId) (c : ExecutingCommand) :
    (s.execute p c).stores = s.stores := rfl
@[simp] theorem State.execute_command (s : State) (p : PortId) (c : ExecutingCommand) :
    (s.execute p c).command = s.command := rfl
@[simp] theorem State.execute_loop (s : State) (p : PortId) (c : ExecutingCommand) :
    (s.execute p c).loop = s.loop := rfl
@[simp] theorem State.execute_probe (s : State) (p : PortId) (c : ExecutingCommand) :
    (s.execute p c).probe = s.probe := rfl
@[simp] theorem State.execute_mirror (s : State) (p : PortId) (c : ExecutingCommand) :
    (s.execute p c).mirror = s.mirror := rfl
@[simp] theorem State.execute_ports (s : State) (p : PortId) (c : ExecutingCommand) :
    (s.execute p c).ports = s.ports.set p { s.ports.get p with activity := .executing c } := rfl
@[simp] theorem State.execute_capture (s : State) (p : PortId) (c : ExecutingCommand) :
    (s.execute p c).capture = s.capture := rfl
@[simp] theorem State.execute_offload (s : State) (p : PortId) (c : ExecutingCommand) :
    (s.execute p c).offload = s.offload := rfl

/-! ## onLoop -/

@[simp] theorem State.onLoop_pending (s : State) (f : LoopController → LoopController) :
    (s.onLoop f).pending = s.pending := rfl
@[simp] theorem State.onLoop_resetActs (s : State) (f : LoopController → LoopController) :
    (s.onLoop f).resetActs = s.resetActs := rfl
@[simp] theorem State.onLoop_line (s : State) (f : LoopController → LoopController) : (s.onLoop f).line = s.line := rfl
@[simp] theorem State.onLoop_manager (s : State) (f : LoopController → LoopController) :
    (s.onLoop f).manager = s.manager := rfl
@[simp] theorem State.onLoop_receivers (s : State) (f : LoopController → LoopController) :
    (s.onLoop f).receivers = s.receivers := rfl
@[simp] theorem State.onLoop_slots (s : State) (f : LoopController → LoopController) :
    (s.onLoop f).slots = s.slots := rfl
@[simp] theorem State.onLoop_engine (s : State) (f : LoopController → LoopController) :
    (s.onLoop f).engine = s.engine := rfl
@[simp] theorem State.onLoop_stores (s : State) (f : LoopController → LoopController) :
    (s.onLoop f).stores = s.stores := rfl
@[simp] theorem State.onLoop_command (s : State) (f : LoopController → LoopController) :
    (s.onLoop f).command = s.command := rfl
@[simp] theorem State.onLoop_loop (s : State) (f : LoopController → LoopController) :
    (s.onLoop f).loop = f s.loop := rfl
@[simp] theorem State.onLoop_probe (s : State) (f : LoopController → LoopController) :
    (s.onLoop f).probe = s.probe := rfl
@[simp] theorem State.onLoop_mirror (s : State) (f : LoopController → LoopController) :
    (s.onLoop f).mirror = s.mirror := rfl
@[simp] theorem State.onLoop_ports (s : State) (f : LoopController → LoopController) :
    (s.onLoop f).ports = s.ports := rfl
@[simp] theorem State.onLoop_capture (s : State) (f : LoopController → LoopController) :
    (s.onLoop f).capture = s.capture := rfl
@[simp] theorem State.onLoop_offload (s : State) (f : LoopController → LoopController) :
    (s.onLoop f).offload = s.offload := rfl

/-! ## onEngine -/

@[simp] theorem State.onEngine_pending (s : State) (f : Engine → Engine) : (s.onEngine f).pending = s.pending := rfl
@[simp] theorem State.onEngine_resetActs (s : State) (f : Engine → Engine) :
    (s.onEngine f).resetActs = s.resetActs := rfl
@[simp] theorem State.onEngine_line (s : State) (f : Engine → Engine) : (s.onEngine f).line = s.line := rfl
@[simp] theorem State.onEngine_manager (s : State) (f : Engine → Engine) : (s.onEngine f).manager = s.manager := rfl
@[simp] theorem State.onEngine_receivers (s : State) (f : Engine → Engine) :
    (s.onEngine f).receivers = s.receivers := rfl
@[simp] theorem State.onEngine_slots (s : State) (f : Engine → Engine) : (s.onEngine f).slots = s.slots := rfl
@[simp] theorem State.onEngine_engine (s : State) (f : Engine → Engine) : (s.onEngine f).engine = f s.engine := rfl
@[simp] theorem State.onEngine_stores (s : State) (f : Engine → Engine) : (s.onEngine f).stores = s.stores := rfl
@[simp] theorem State.onEngine_command (s : State) (f : Engine → Engine) : (s.onEngine f).command = s.command := rfl
@[simp] theorem State.onEngine_loop (s : State) (f : Engine → Engine) : (s.onEngine f).loop = s.loop := rfl
@[simp] theorem State.onEngine_probe (s : State) (f : Engine → Engine) : (s.onEngine f).probe = s.probe := rfl
@[simp] theorem State.onEngine_mirror (s : State) (f : Engine → Engine) : (s.onEngine f).mirror = s.mirror := rfl
@[simp] theorem State.onEngine_ports (s : State) (f : Engine → Engine) : (s.onEngine f).ports = s.ports := rfl
@[simp] theorem State.onEngine_capture (s : State) (f : Engine → Engine) : (s.onEngine f).capture = s.capture := rfl
@[simp] theorem State.onEngine_offload (s : State) (f : Engine → Engine) : (s.onEngine f).offload = s.offload := rfl

/-! ## onMirror -/

@[simp] theorem State.onMirror_pending (s : State) (f : MirrorLink → MirrorLink) :
    (s.onMirror f).pending = s.pending := rfl
@[simp] theorem State.onMirror_resetActs (s : State) (f : MirrorLink → MirrorLink) :
    (s.onMirror f).resetActs = s.resetActs := rfl
@[simp] theorem State.onMirror_line (s : State) (f : MirrorLink → MirrorLink) : (s.onMirror f).line = s.line := rfl
@[simp] theorem State.onMirror_manager (s : State) (f : MirrorLink → MirrorLink) :
    (s.onMirror f).manager = s.manager := rfl
@[simp] theorem State.onMirror_receivers (s : State) (f : MirrorLink → MirrorLink) :
    (s.onMirror f).receivers = s.receivers := rfl
@[simp] theorem State.onMirror_slots (s : State) (f : MirrorLink → MirrorLink) : (s.onMirror f).slots = s.slots := rfl
@[simp] theorem State.onMirror_engine (s : State) (f : MirrorLink → MirrorLink) :
    (s.onMirror f).engine = s.engine := rfl
@[simp] theorem State.onMirror_stores (s : State) (f : MirrorLink → MirrorLink) :
    (s.onMirror f).stores = s.stores := rfl
@[simp] theorem State.onMirror_command (s : State) (f : MirrorLink → MirrorLink) :
    (s.onMirror f).command = s.command := rfl
@[simp] theorem State.onMirror_loop (s : State) (f : MirrorLink → MirrorLink) : (s.onMirror f).loop = s.loop := rfl
@[simp] theorem State.onMirror_probe (s : State) (f : MirrorLink → MirrorLink) : (s.onMirror f).probe = s.probe := rfl
@[simp] theorem State.onMirror_mirror (s : State) (f : MirrorLink → MirrorLink) :
    (s.onMirror f).mirror = f s.mirror := rfl
@[simp] theorem State.onMirror_ports (s : State) (f : MirrorLink → MirrorLink) : (s.onMirror f).ports = s.ports := rfl
@[simp] theorem State.onMirror_capture (s : State) (f : MirrorLink → MirrorLink) :
    (s.onMirror f).capture = s.capture := rfl
@[simp] theorem State.onMirror_offload (s : State) (f : MirrorLink → MirrorLink) :
    (s.onMirror f).offload = s.offload := rfl

/-! ## onCapture -/

@[simp] theorem State.onCapture_pending (s : State) (f : CaptureUnit → CaptureUnit) :
    (s.onCapture f).pending = s.pending := rfl
@[simp] theorem State.onCapture_resetActs (s : State) (f : CaptureUnit → CaptureUnit) :
    (s.onCapture f).resetActs = s.resetActs := rfl
@[simp] theorem State.onCapture_line (s : State) (f : CaptureUnit → CaptureUnit) : (s.onCapture f).line = s.line := rfl
@[simp] theorem State.onCapture_manager (s : State) (f : CaptureUnit → CaptureUnit) :
    (s.onCapture f).manager = s.manager := rfl
@[simp] theorem State.onCapture_receivers (s : State) (f : CaptureUnit → CaptureUnit) :
    (s.onCapture f).receivers = s.receivers := rfl
@[simp] theorem State.onCapture_slots (s : State) (f : CaptureUnit → CaptureUnit) :
    (s.onCapture f).slots = s.slots := rfl
@[simp] theorem State.onCapture_engine (s : State) (f : CaptureUnit → CaptureUnit) :
    (s.onCapture f).engine = s.engine := rfl
@[simp] theorem State.onCapture_stores (s : State) (f : CaptureUnit → CaptureUnit) :
    (s.onCapture f).stores = s.stores := rfl
@[simp] theorem State.onCapture_command (s : State) (f : CaptureUnit → CaptureUnit) :
    (s.onCapture f).command = s.command := rfl
@[simp] theorem State.onCapture_loop (s : State) (f : CaptureUnit → CaptureUnit) : (s.onCapture f).loop = s.loop := rfl
@[simp] theorem State.onCapture_probe (s : State) (f : CaptureUnit → CaptureUnit) :
    (s.onCapture f).probe = s.probe := rfl
@[simp] theorem State.onCapture_mirror (s : State) (f : CaptureUnit → CaptureUnit) :
    (s.onCapture f).mirror = s.mirror := rfl
@[simp] theorem State.onCapture_ports (s : State) (f : CaptureUnit → CaptureUnit) :
    (s.onCapture f).ports = s.ports := rfl
@[simp] theorem State.onCapture_capture (s : State) (f : CaptureUnit → CaptureUnit) :
    (s.onCapture f).capture = f s.capture := rfl
@[simp] theorem State.onCapture_offload (s : State) (f : CaptureUnit → CaptureUnit) :
    (s.onCapture f).offload = s.offload := rfl

/-! ## onOffload -/

@[simp] theorem State.onOffload_pending (s : State) (f : OffloadUnit → OffloadUnit) :
    (s.onOffload f).pending = s.pending := rfl
@[simp] theorem State.onOffload_resetActs (s : State) (f : OffloadUnit → OffloadUnit) :
    (s.onOffload f).resetActs = s.resetActs := rfl
@[simp] theorem State.onOffload_line (s : State) (f : OffloadUnit → OffloadUnit) : (s.onOffload f).line = s.line := rfl
@[simp] theorem State.onOffload_manager (s : State) (f : OffloadUnit → OffloadUnit) :
    (s.onOffload f).manager = s.manager := rfl
@[simp] theorem State.onOffload_receivers (s : State) (f : OffloadUnit → OffloadUnit) :
    (s.onOffload f).receivers = s.receivers := rfl
@[simp] theorem State.onOffload_slots (s : State) (f : OffloadUnit → OffloadUnit) :
    (s.onOffload f).slots = s.slots := rfl
@[simp] theorem State.onOffload_engine (s : State) (f : OffloadUnit → OffloadUnit) :
    (s.onOffload f).engine = s.engine := rfl
@[simp] theorem State.onOffload_stores (s : State) (f : OffloadUnit → OffloadUnit) :
    (s.onOffload f).stores = s.stores := rfl
@[simp] theorem State.onOffload_command (s : State) (f : OffloadUnit → OffloadUnit) :
    (s.onOffload f).command = s.command := rfl
@[simp] theorem State.onOffload_loop (s : State) (f : OffloadUnit → OffloadUnit) : (s.onOffload f).loop = s.loop := rfl
@[simp] theorem State.onOffload_probe (s : State) (f : OffloadUnit → OffloadUnit) :
    (s.onOffload f).probe = s.probe := rfl
@[simp] theorem State.onOffload_mirror (s : State) (f : OffloadUnit → OffloadUnit) :
    (s.onOffload f).mirror = s.mirror := rfl
@[simp] theorem State.onOffload_ports (s : State) (f : OffloadUnit → OffloadUnit) :
    (s.onOffload f).ports = s.ports := rfl
@[simp] theorem State.onOffload_capture (s : State) (f : OffloadUnit → OffloadUnit) :
    (s.onOffload f).capture = s.capture := rfl
@[simp] theorem State.onOffload_offload (s : State) (f : OffloadUnit → OffloadUnit) :
    (s.onOffload f).offload = f s.offload := rfl

/-! ## onStores -/

@[simp] theorem State.onStores_pending (s : State) (f : StoreController → StoreController) :
    (s.onStores f).pending = s.pending := rfl
@[simp] theorem State.onStores_resetActs (s : State) (f : StoreController → StoreController) :
    (s.onStores f).resetActs = s.resetActs := rfl
@[simp] theorem State.onStores_line (s : State) (f : StoreController → StoreController) :
    (s.onStores f).line = s.line := rfl
@[simp] theorem State.onStores_manager (s : State) (f : StoreController → StoreController) :
    (s.onStores f).manager = s.manager := rfl
@[simp] theorem State.onStores_receivers (s : State) (f : StoreController → StoreController) :
    (s.onStores f).receivers = s.receivers := rfl
@[simp] theorem State.onStores_slots (s : State) (f : StoreController → StoreController) :
    (s.onStores f).slots = s.slots := rfl
@[simp] theorem State.onStores_engine (s : State) (f : StoreController → StoreController) :
    (s.onStores f).engine = s.engine := rfl
@[simp] theorem State.onStores_stores (s : State) (f : StoreController → StoreController) :
    (s.onStores f).stores = f s.stores := rfl
@[simp] theorem State.onStores_command (s : State) (f : StoreController → StoreController) :
    (s.onStores f).command = s.command := rfl
@[simp] theorem State.onStores_loop (s : State) (f : StoreController → StoreController) :
    (s.onStores f).loop = s.loop := rfl
@[simp] theorem State.onStores_probe (s : State) (f : StoreController → StoreController) :
    (s.onStores f).probe = s.probe := rfl
@[simp] theorem State.onStores_mirror (s : State) (f : StoreController → StoreController) :
    (s.onStores f).mirror = s.mirror := rfl
@[simp] theorem State.onStores_ports (s : State) (f : StoreController → StoreController) :
    (s.onStores f).ports = s.ports := rfl
@[simp] theorem State.onStores_capture (s : State) (f : StoreController → StoreController) :
    (s.onStores f).capture = s.capture := rfl
@[simp] theorem State.onStores_offload (s : State) (f : StoreController → StoreController) :
    (s.onStores f).offload = s.offload := rfl

/-! ## onCommand -/

@[simp] theorem State.onCommand_pending (s : State) (f : CommandUnit → CommandUnit) :
    (s.onCommand f).pending = s.pending := rfl
@[simp] theorem State.onCommand_resetActs (s : State) (f : CommandUnit → CommandUnit) :
    (s.onCommand f).resetActs = s.resetActs := rfl
@[simp] theorem State.onCommand_line (s : State) (f : CommandUnit → CommandUnit) : (s.onCommand f).line = s.line := rfl
@[simp] theorem State.onCommand_manager (s : State) (f : CommandUnit → CommandUnit) :
    (s.onCommand f).manager = s.manager := rfl
@[simp] theorem State.onCommand_receivers (s : State) (f : CommandUnit → CommandUnit) :
    (s.onCommand f).receivers = s.receivers := rfl
@[simp] theorem State.onCommand_slots (s : State) (f : CommandUnit → CommandUnit) :
    (s.onCommand f).slots = s.slots := rfl
@[simp] theorem State.onCommand_engine (s : State) (f : CommandUnit → CommandUnit) :
    (s.onCommand f).engine = s.engine := rfl
@[simp] theorem State.onCommand_stores (s : State) (f : CommandUnit → CommandUnit) :
    (s.onCommand f).stores = s.stores := rfl
@[simp] theorem State.onCommand_command (s : State) (f : CommandUnit → CommandUnit) :
    (s.onCommand f).command = f s.command := rfl
@[simp] theorem State.onCommand_loop (s : State) (f : CommandUnit → CommandUnit) : (s.onCommand f).loop = s.loop := rfl
@[simp] theorem State.onCommand_probe (s : State) (f : CommandUnit → CommandUnit) :
    (s.onCommand f).probe = s.probe := rfl
@[simp] theorem State.onCommand_mirror (s : State) (f : CommandUnit → CommandUnit) :
    (s.onCommand f).mirror = s.mirror := rfl
@[simp] theorem State.onCommand_ports (s : State) (f : CommandUnit → CommandUnit) :
    (s.onCommand f).ports = s.ports := rfl
@[simp] theorem State.onCommand_capture (s : State) (f : CommandUnit → CommandUnit) :
    (s.onCommand f).capture = s.capture := rfl
@[simp] theorem State.onCommand_offload (s : State) (f : CommandUnit → CommandUnit) :
    (s.onCommand f).offload = s.offload := rfl

/-! ## onProbe -/

@[simp] theorem State.onProbe_pending (s : State) (f : ProbeGenerator → ProbeGenerator) :
    (s.onProbe f).pending = s.pending := rfl
@[simp] theorem State.onProbe_resetActs (s : State) (f : ProbeGenerator → ProbeGenerator) :
    (s.onProbe f).resetActs = s.resetActs := rfl
@[simp] theorem State.onProbe_line (s : State) (f : ProbeGenerator → ProbeGenerator) :
    (s.onProbe f).line = s.line := rfl
@[simp] theorem State.onProbe_manager (s : State) (f : ProbeGenerator → ProbeGenerator) :
    (s.onProbe f).manager = s.manager := rfl
@[simp] theorem State.onProbe_receivers (s : State) (f : ProbeGenerator → ProbeGenerator) :
    (s.onProbe f).receivers = s.receivers := rfl
@[simp] theorem State.onProbe_slots (s : State) (f : ProbeGenerator → ProbeGenerator) :
    (s.onProbe f).slots = s.slots := rfl
@[simp] theorem State.onProbe_engine (s : State) (f : ProbeGenerator → ProbeGenerator) :
    (s.onProbe f).engine = s.engine := rfl
@[simp] theorem State.onProbe_stores (s : State) (f : ProbeGenerator → ProbeGenerator) :
    (s.onProbe f).stores = s.stores := rfl
@[simp] theorem State.onProbe_command (s : State) (f : ProbeGenerator → ProbeGenerator) :
    (s.onProbe f).command = s.command := rfl
@[simp] theorem State.onProbe_loop (s : State) (f : ProbeGenerator → ProbeGenerator) :
    (s.onProbe f).loop = s.loop := rfl
@[simp] theorem State.onProbe_probe (s : State) (f : ProbeGenerator → ProbeGenerator) :
    (s.onProbe f).probe = f s.probe := rfl
@[simp] theorem State.onProbe_mirror (s : State) (f : ProbeGenerator → ProbeGenerator) :
    (s.onProbe f).mirror = s.mirror := rfl
@[simp] theorem State.onProbe_ports (s : State) (f : ProbeGenerator → ProbeGenerator) :
    (s.onProbe f).ports = s.ports := rfl
@[simp] theorem State.onProbe_capture (s : State) (f : ProbeGenerator → ProbeGenerator) :
    (s.onProbe f).capture = s.capture := rfl
@[simp] theorem State.onProbe_offload (s : State) (f : ProbeGenerator → ProbeGenerator) :
    (s.onProbe f).offload = s.offload := rfl

end Sys2Proof.Machine
end

