-- ==== Sys2Proof/Laws/Frames.lean ====
section
/-!
SUPPORT. What each shared operation keeps, one law per operation, so that no proof unfolds it to learn that a block it
does not own is unchanged. The laws are in one of five forms, from the narrowest to the widest.
-/
namespace Sys2Proof.Machine

/-- Nothing but the loop state controller and the ports differs. -/
abbrev KeepsAllButLoop (t s : State) : Prop :=
  t.pending = s.pending ∧ t.resetActs = s.resetActs ∧ t.line = s.line ∧ t.manager = s.manager ∧
    t.receivers = s.receivers ∧ t.slots = s.slots ∧ t.engine = s.engine ∧ t.stores = s.stores ∧
    t.command = s.command ∧ t.probe = s.probe ∧ t.mirror = s.mirror ∧ t.capture = s.capture ∧ t.offload = s.offload

/-- Nothing but the slots, the loop state controller and the ports differs. -/
abbrev KeepsAllButSlots (t s : State) : Prop :=
  t.pending = s.pending ∧ t.resetActs = s.resetActs ∧ t.line = s.line ∧ t.manager = s.manager ∧
    t.receivers = s.receivers ∧ t.engine = s.engine ∧ t.stores = s.stores ∧
    t.command = s.command ∧ t.probe = s.probe ∧ t.mirror = s.mirror ∧ t.capture = s.capture ∧ t.offload = s.offload

/-- Nothing but the manager, the receivers and the engine differs: what an offer, an attachment or a choice of the
engine can touch. -/
abbrev KeepsAllButIntake (t s : State) : Prop :=
  t.pending = s.pending ∧ t.resetActs = s.resetActs ∧ t.line = s.line ∧ t.slots = s.slots ∧ t.stores = s.stores ∧
    t.command = s.command ∧ t.loop = s.loop ∧ t.probe = s.probe ∧ t.mirror = s.mirror ∧ t.ports = s.ports ∧
    t.capture = s.capture ∧ t.offload = s.offload

/-- What every operation of the cycle keeps, however far it reaches: the queue of commands, the reset, the stores, the
mirror link, telemetry, offload, and U, D and the actuator count. -/
abbrev KeepsOutsideCycle (t s : State) : Prop :=
  t.pending = s.pending ∧ t.resetActs = s.resetActs ∧ t.stores = s.stores ∧ t.mirror = s.mirror ∧
    t.capture = s.capture ∧ t.offload = s.offload ∧ t.command.u = s.command.u ∧ t.command.d = s.command.d ∧
    t.command.actuatorCount = s.command.actuatorCount

/-- The queue of commands and the reset are unchanged. -/
abbrev KeepsQueue (t s : State) : Prop := t.pending = s.pending ∧ t.resetActs = s.resetActs

/-- A fold over links keeps what each of its steps keeps. -/
theorem forLinks_keeps {α : Type} (π : State → α) (f : LinkId → State → State) (h : ∀ l s, π (f l s) = π s)
    (ls : List LinkId) (s : State) : π (forLinks f ls s) = π s := by
  induction ls generalizing s with
  | nil => rfl
  | cons l ls ih => rw [forLinks, ih, h]

/-! ## Trips and slots -/

@[simp] theorem withdrawRequest_keeps (r : Reason) (p : Option PortId) (s : State) :
    KeepsAllButLoop (withdrawRequest r p s) s := by
  unfold withdrawRequest; split <;> simp [KeepsAllButLoop]

@[simp] theorem takeTrip_keeps (t : PendingTrip) (s : State) : KeepsAllButLoop (takeTrip t s) s := by
  unfold takeTrip; split <;> simp [KeepsAllButLoop]

@[simp] theorem holdTrip_keeps (c : TripCause) (s : State) : KeepsAllButLoop (requestTrip.holdTrip c s) s := by
  unfold requestTrip.holdTrip; split <;> simp [KeepsAllButLoop]

@[simp] theorem requestTrip_keeps (c : TripCause) (s : State) : KeepsAllButLoop (requestTrip c s) s := by
  unfold requestTrip; split <;> simp [KeepsAllButLoop]

@[simp] theorem postSlotChange_keeps (l : LinkId) (c : Option SlotState) (s : State) :
    KeepsAllButLoop (postSlotChange l c s) s := by
  unfold postSlotChange; split <;> simp [KeepsAllButLoop]

@[simp] theorem treatSlot_keeps (o : LoopState) (t : Quad (Option AttachStatus)) (l : LinkId) (s : State) :
    KeepsAllButSlots (treatSlot o t l s) s := by
  unfold treatSlot; dsimp only; split <;> simp [KeepsAllButSlots]

@[simp] theorem muteSlot_keeps (l : LinkId) (s : State) : KeepsAllButSlots (muteSlot l s) s := by
  unfold muteSlot; split <;> simp [KeepsAllButSlots]

@[simp] theorem unmuteSlot_keeps (l : LinkId) (s : State) : KeepsAllButSlots (unmuteSlot l s) s := by
  unfold unmuteSlot; split <;> simp [KeepsAllButSlots]

@[simp] theorem startSlot_keeps (l : LinkId) (s : State) : KeepsAllButSlots (startSlot l s) s := by
  unfold startSlot; dsimp only; split <;> simp [KeepsAllButSlots]

@[simp] theorem postEnableChange_keeps (b : Quad Slot) (l : LinkId) (s : State) :
    KeepsAllButLoop (postEnableChange b l s) s := by
  unfold postEnableChange; split <;> simp [KeepsAllButLoop]

@[simp] theorem treatSlots_keeps (o : LoopState) (t : Quad (Option AttachStatus)) (ls : List LinkId) (s : State) :
    KeepsAllButSlots (forLinks (treatSlot o t) ls s) s := by
  exact ⟨forLinks_keeps State.pending _ (fun l s => by simp) ls s,
    forLinks_keeps State.resetActs _ (fun l s => by simp) ls s,
    forLinks_keeps State.line _ (fun l s => by simp) ls s,
    forLinks_keeps State.manager _ (fun l s => by simp) ls s,
    forLinks_keeps State.receivers _ (fun l s => by simp) ls s,
    forLinks_keeps State.engine _ (fun l s => by simp) ls s,
    forLinks_keeps State.stores _ (fun l s => by simp) ls s,
    forLinks_keeps State.command _ (fun l s => by simp) ls s,
    forLinks_keeps State.probe _ (fun l s => by simp) ls s,
    forLinks_keeps State.mirror _ (fun l s => by simp) ls s,
    forLinks_keeps State.capture _ (fun l s => by simp) ls s,
    forLinks_keeps State.offload _ (fun l s => by simp) ls s⟩

@[simp] theorem startSlots_keeps (ls : List LinkId) (s : State) : KeepsAllButSlots (forLinks startSlot ls s) s := by
  exact ⟨forLinks_keeps State.pending _ (fun l s => by simp) ls s,
    forLinks_keeps State.resetActs _ (fun l s => by simp) ls s,
    forLinks_keeps State.line _ (fun l s => by simp) ls s,
    forLinks_keeps State.manager _ (fun l s => by simp) ls s,
    forLinks_keeps State.receivers _ (fun l s => by simp) ls s,
    forLinks_keeps State.engine _ (fun l s => by simp) ls s,
    forLinks_keeps State.stores _ (fun l s => by simp) ls s,
    forLinks_keeps State.command _ (fun l s => by simp) ls s,
    forLinks_keeps State.probe _ (fun l s => by simp) ls s,
    forLinks_keeps State.mirror _ (fun l s => by simp) ls s,
    forLinks_keeps State.capture _ (fun l s => by simp) ls s,
    forLinks_keeps State.offload _ (fun l s => by simp) ls s⟩

@[simp] theorem postEnableChanges_keeps (b : Quad Slot) (ls : List LinkId) (s : State) :
    KeepsAllButLoop (forLinks (postEnableChange b) ls s) s := by
  exact ⟨forLinks_keeps State.pending _ (fun l s => by simp) ls s,
    forLinks_keeps State.resetActs _ (fun l s => by simp) ls s,
    forLinks_keeps State.line _ (fun l s => by simp) ls s,
    forLinks_keeps State.manager _ (fun l s => by simp) ls s,
    forLinks_keeps State.receivers _ (fun l s => by simp) ls s,
    forLinks_keeps State.slots _ (fun l s => by simp) ls s,
    forLinks_keeps State.engine _ (fun l s => by simp) ls s,
    forLinks_keeps State.stores _ (fun l s => by simp) ls s,
    forLinks_keeps State.command _ (fun l s => by simp) ls s,
    forLinks_keeps State.probe _ (fun l s => by simp) ls s,
    forLinks_keeps State.mirror _ (fun l s => by simp) ls s,
    forLinks_keeps State.capture _ (fun l s => by simp) ls s,
    forLinks_keeps State.offload _ (fun l s => by simp) ls s⟩

/-! ## The close -/

@[simp] theorem setStatus_keeps (l : LinkId) (x : AttachStatus) (s : State) :
    KeepsAllButIntake (setStatus l x s) s := by
  simp [KeepsAllButIntake, setStatus]

@[simp] theorem discardSlot_keeps (l : LinkId) (s : State) : KeepsAllButIntake (discardSlot l s) s := by
  simp [KeepsAllButIntake, discardSlot]

@[simp] theorem startComputation_keeps (x : Quad Selection) (o : LoopState) (s : State) :
    KeepsOutsideCycle (startComputation x o s) s := by
  simp [KeepsOutsideCycle, startComputation]

@[simp] theorem enterClosing_keeps (s : State) : KeepsAllButIntake (enterClosing s) s := by
  simp [KeepsAllButIntake, enterClosing]

@[simp] theorem treatAll_keeps (o : OpenRecord) (s : State) : KeepsOutsideCycle (Machine.treatSlots o s) s := by
  simp [KeepsOutsideCycle, Machine.treatSlots]

@[simp] theorem closeCycle_keeps (c : CloseCause) (s : State) : KeepsOutsideCycle (closeCycle c s) s := by
  unfold closeCycle; split <;> simp [KeepsOutsideCycle]

@[simp] theorem closeIfComplete_keeps (s : State) : KeepsOutsideCycle (closeIfComplete s) s := by
  unfold closeIfComplete; repeat' split
  all_goals simp [KeepsOutsideCycle]

@[simp] theorem abandonAtDeadline_keeps (l : LinkId) (s : State) : KeepsAllButIntake (abandonAtDeadline l s) s := by
  unfold abandonAtDeadline; split <;> simp [KeepsAllButIntake]

@[simp] theorem abandonAllAtDeadline_keeps (ls : List LinkId) (s : State) :
    KeepsAllButIntake (forLinks abandonAtDeadline ls s) s := by
  exact ⟨forLinks_keeps State.pending _ (fun l s => by simp) ls s,
    forLinks_keeps State.resetActs _ (fun l s => by simp) ls s,
    forLinks_keeps State.line _ (fun l s => by simp) ls s,
    forLinks_keeps State.slots _ (fun l s => by simp) ls s,
    forLinks_keeps State.stores _ (fun l s => by simp) ls s,
    forLinks_keeps State.command _ (fun l s => by simp) ls s,
    forLinks_keeps State.loop _ (fun l s => by simp) ls s,
    forLinks_keeps State.probe _ (fun l s => by simp) ls s,
    forLinks_keeps State.mirror _ (fun l s => by simp) ls s,
    forLinks_keeps State.ports _ (fun l s => by simp) ls s,
    forLinks_keeps State.capture _ (fun l s => by simp) ls s,
    forLinks_keeps State.offload _ (fun l s => by simp) ls s⟩

@[simp] theorem deadlineClose_keeps (s : State) : KeepsOutsideCycle (deadlineClose s) s := by
  simp [KeepsOutsideCycle, deadlineClose]

/-! ## Offers, choices, reports -/

@[simp] theorem attach_keeps (l : LinkId) (e : FifoEntry) (s : State) : KeepsAllButIntake (attach l e s) s := by
  simp [KeepsAllButIntake, attach]

@[simp] theorem offerHead_keeps (l : LinkId) (s : State) : KeepsAllButIntake (offerHead l s) s := by
  unfold offerHead; repeat' split
  all_goals simp [KeepsAllButIntake]

@[simp] theorem offerHeads_keeps (ls : List LinkId) (s : State) : KeepsAllButIntake (forLinks offerHead ls s) s := by
  exact ⟨forLinks_keeps State.pending _ (fun l s => by simp) ls s,
    forLinks_keeps State.resetActs _ (fun l s => by simp) ls s,
    forLinks_keeps State.line _ (fun l s => by simp) ls s,
    forLinks_keeps State.slots _ (fun l s => by simp) ls s,
    forLinks_keeps State.stores _ (fun l s => by simp) ls s,
    forLinks_keeps State.command _ (fun l s => by simp) ls s,
    forLinks_keeps State.loop _ (fun l s => by simp) ls s,
    forLinks_keeps State.probe _ (fun l s => by simp) ls s,
    forLinks_keeps State.mirror _ (fun l s => by simp) ls s,
    forLinks_keeps State.ports _ (fun l s => by simp) ls s,
    forLinks_keeps State.capture _ (fun l s => by simp) ls s,
    forLinks_keeps State.offload _ (fun l s => by simp) ls s⟩

@[simp] theorem takeGroup_keeps (l : LinkId) (s : State) : KeepsAllButIntake (takeGroup l s) s := by
  unfold takeGroup; repeat' split
  all_goals simp [KeepsAllButIntake]

@[simp] theorem engineChoose_keeps (s : State) : KeepsAllButIntake (engineChoose s) s := by
  unfold engineChoose; repeat' split
  all_goals simp [KeepsAllButIntake]

@[simp] theorem reportVerified_keeps (l : LinkId) (s : State) : KeepsOutsideCycle (reportVerified l s) s := by
  unfold reportVerified; split <;> simp [KeepsOutsideCycle]

@[simp] theorem reportLastGroup_keeps (l : LinkId) (s : State) : KeepsOutsideCycle (reportLastGroup l s) s := by
  unfold reportLastGroup; split <;> simp [KeepsOutsideCycle]

/-! ## Opening a cycle -/

@[simp] theorem openCycle_keeps (c : OpenCause) (b : Bool) (s : State) : KeepsOutsideCycle (openCycle c b s) s := by
  unfold openCycle; dsimp only; split <;> simp [KeepsOutsideCycle]

@[simp] theorem evalLead_keeps (s : State) : KeepsOutsideCycle (evalLead s) s := by
  unfold evalLead; split <;> simp [KeepsOutsideCycle]

@[simp] theorem afterDeparture_keeps (l : LinkId) (s : State) : KeepsOutsideCycle (afterDeparture l s) s := by
  simp [KeepsOutsideCycle, afterDeparture]

@[simp] theorem latchTrigger_keeps (c : LatchedCause) (s : State) : KeepsAllButIntake (latchTrigger c s) s := by
  unfold latchTrigger; split <;> simp [KeepsAllButIntake]

@[simp] theorem produceTrigger_keeps (c : LatchedCause) (s : State) : KeepsOutsideCycle (produceTrigger c s) s := by
  unfold produceTrigger; split <;> simp [KeepsOutsideCycle]

@[simp] theorem startFallback_keeps (s : State) : KeepsAllButIntake (startFallback s) s := by
  unfold startFallback; split <;> simp [KeepsAllButIntake]

@[simp] theorem enterArmed_keeps (s : State) : KeepsOutsideCycle (enterArmed s) s := by
  unfold enterArmed; dsimp only; repeat' split
  all_goals simp [KeepsOutsideCycle]

@[simp] theorem dropLatch_keeps (s : State) : KeepsAllButIntake (dropLatch s) s := by
  simp [KeepsAllButIntake, dropLatch]

@[simp] theorem managerToIdle_keeps (s : State) : KeepsAllButIntake (managerToIdle s) s := by
  simp [KeepsAllButIntake, managerToIdle]

/-! ## Timing -/

@[simp] theorem passEdge_keeps (s : State) : KeepsOutsideCycle (passEdge s) s := by
  unfold passEdge; repeat' split
  all_goals simp [KeepsOutsideCycle]

@[simp] theorem filteredEdge_keeps (b : Bool) (s : State) : KeepsOutsideCycle (filteredEdge b s) s := by
  unfold filteredEdge; split <;> simp [KeepsOutsideCycle]

@[simp] theorem filterTakes_keeps (s : State) : KeepsOutsideCycle (filterTakes s) s := by
  unfold filterTakes; dsimp only; split <;> simp [KeepsOutsideCycle]

@[simp] theorem startMeasuring_keeps (s : State) : KeepsOutsideCycle (startMeasuring s) s := by
  unfold startMeasuring; repeat' split
  all_goals simp [KeepsOutsideCycle]

@[simp] theorem stopModeTimer_keeps (m : TriggerMode) (s : State) : KeepsAllButIntake (stopModeTimer m s) s := by
  unfold stopModeTimer; split <;> simp [KeepsAllButIntake]

@[simp] theorem startPeriod_keeps (s : State) : KeepsAllButIntake (startPeriod s) s := by
  unfold startPeriod; split <;> simp [KeepsAllButIntake]

@[simp] theorem changeMode_keeps (m : TriggerMode) (s : State) : KeepsAllButIntake (changeMode m s) s := by
  unfold changeMode; split <;> simp [KeepsAllButIntake]

@[simp] theorem changeFilter_keeps (t : TimingSettings) (s : State) : KeepsOutsideCycle (changeFilter t s) s := by
  unfold changeFilter; split <;> simp [KeepsOutsideCycle]

@[simp] theorem leadInForce_keeps (s : State) : KeepsOutsideCycle (leadInForce s) s := by
  unfold leadInForce; repeat' split
  all_goals simp [KeepsOutsideCycle]

@[simp] theorem applyTiming_keeps (t : TimingSettings) (s : State) : KeepsOutsideCycle (applyTiming t s) s := by
  simp [KeepsOutsideCycle, applyTiming]

@[simp] theorem takeHeldTiming_keeps (s : State) : KeepsOutsideCycle (takeHeldTiming s) s := by
  unfold takeHeldTiming; split <;> simp [KeepsOutsideCycle]

/-! ## Links -/

@[simp] theorem setReception_keeps (l : LinkId) (x : Reception) (s : State) :
    KeepsAllButIntake (setReception l x s) s := by
  simp [KeepsAllButIntake, setReception]

@[simp] theorem reportAbandoned_keeps (l : LinkId) (s : State) : KeepsAllButIntake (reportAbandoned l s) s := by
  unfold reportAbandoned; simp only [discardSlot]; split <;> simp [KeepsAllButIntake]

@[simp] theorem removeStored_keeps (l : LinkId) (s : State) : KeepsOutsideCycle (removeStored l s) s := by
  unfold removeStored; dsimp only; split <;> simp [KeepsOutsideCycle]

@[simp] theorem abandonInto_keeps (l : LinkId) (c : AbandonCause) (x : Reception) (s : State) :
    KeepsOutsideCycle (abandonInto l c x s) s := by
  unfold abandonInto; dsimp only; split <;> simp [KeepsOutsideCycle]

@[simp] theorem rejectFrame_keeps (l : LinkId) (f : ReceiverCounters → ReceiverCounters) (s : State) :
    KeepsAllButIntake (rejectFrame l f s) s := by
  simp [KeepsAllButIntake, rejectFrame]

@[simp] theorem dropFrame_keeps (l : LinkId) (f : RxFrame) (s : State) : KeepsAllButIntake (dropFrame l f s) s := by
  simp [KeepsAllButIntake, dropFrame]

@[simp] theorem applyOutOfCycle_keeps (l : LinkId) (f : RxFrame) (s : State) :
    KeepsAllButIntake (applyOutOfCycle l f s) s := by
  unfold applyOutOfCycle; repeat' split
  all_goals simp [KeepsAllButIntake]

@[simp] theorem acceptData_keeps (l : LinkId) (f : RxFrame) (s : State) : KeepsOutsideCycle (acceptData l f s) s := by
  unfold acceptData; dsimp only; split <;> simp [KeepsOutsideCycle]

@[simp] theorem takeHeader_keeps (l : LinkId) (f : RxFrame) (s : State) : KeepsOutsideCycle (takeHeader l f s) s := by
  unfold takeHeader; repeat' split
  all_goals simp [KeepsOutsideCycle]

@[simp] theorem headerData_keeps (l : LinkId) (w : Word) (f : RxFrame) (s : State) :
    KeepsOutsideCycle (headerData l w f s) s := by
  unfold headerData; split <;> simp [KeepsOutsideCycle]

@[simp] theorem completeGroup_keeps (l : LinkId) (f : RxFrame) (g : List Word) (s : State) :
    KeepsOutsideCycle (completeGroup l f g s) s := by
  unfold completeGroup; split <;> simp [KeepsOutsideCycle]

@[simp] theorem storingData_keeps (l : LinkId) (w : Word) (f : RxFrame) (s : State) :
    KeepsOutsideCycle (storingData l w f s) s := by
  unfold storingData; repeat' split
  all_goals simp [KeepsOutsideCycle]

@[simp] theorem discardingData_keeps (l : LinkId) (w : Word) (f : RxFrame) (s : State) :
    KeepsOutsideCycle (discardingData l w f s) s := by
  unfold discardingData; split <;> simp [KeepsOutsideCycle]

@[simp] theorem linkUp_keeps (l : LinkId) (s : State) : KeepsOutsideCycle (linkUp l s) s := by
  unfold linkUp; split <;> simp [KeepsOutsideCycle]

@[simp] theorem goodFrame_keeps (l : LinkId) (s : State) : KeepsOutsideCycle (goodFrame l s) s := by
  simp [KeepsOutsideCycle, goodFrame]

@[simp] theorem verifyStored_keeps (l : LinkId) (f : RxFrame) (s : State) :
    KeepsOutsideCycle (verifyStored l f s) s := by
  unfold verifyStored; dsimp only; split <;> simp [KeepsOutsideCycle]

@[simp] theorem takeNotice_keeps (l : LinkId) (f : RxFrame) (s : State) : KeepsOutsideCycle (takeNotice l f s) s := by
  unfold takeNotice; dsimp only; split <;> simp [KeepsOutsideCycle]

@[simp] theorem verifyDiscarded_keeps (l : LinkId) (f : RxFrame) (s : State) :
    KeepsOutsideCycle (verifyDiscarded l f s) s := by
  unfold verifyDiscarded; split <;> simp [KeepsOutsideCycle]

@[simp] theorem storingEnd_keeps (l : LinkId) (f : RxFrame) (s : State) : KeepsOutsideCycle (storingEnd l f s) s := by
  unfold storingEnd; repeat' split
  all_goals simp [KeepsOutsideCycle]

@[simp] theorem discardingEnd_keeps (l : LinkId) (f : RxFrame) (s : State) :
    KeepsOutsideCycle (discardingEnd l f s) s := by
  unfold discardingEnd; repeat' split
  all_goals simp [KeepsOutsideCycle]

@[simp] theorem receiveStart_keeps (l : LinkId) (s : State) : KeepsOutsideCycle (receiveStart l s) s := by
  simp [KeepsOutsideCycle, receiveStart]

@[simp] theorem receiveData_keeps (l : LinkId) (w : Word) (s : State) : KeepsOutsideCycle (receiveData l w s) s := by
  unfold receiveData; split <;> simp [KeepsOutsideCycle]

@[simp] theorem receiveEnd_keeps (l : LinkId) (s : State) : KeepsOutsideCycle (receiveEnd l s) s := by
  unfold receiveEnd; split <;> simp [KeepsOutsideCycle]

@[simp] theorem receiveInvalid_keeps (l : LinkId) (s : State) : KeepsOutsideCycle (receiveInvalid l s) s := by
  unfold receiveInvalid; split <;> simp [KeepsOutsideCycle]

@[simp] theorem receive_keeps (l : LinkId) (x : LinkSymbol) (s : State) : KeepsOutsideCycle (receive l x s) s := by
  unfold receive; split <;> simp [KeepsOutsideCycle]

@[simp] theorem declareLock_keeps (l : LinkId) (s : State) : KeepsOutsideCycle (declareLock l s) s := by
  simp [KeepsOutsideCycle, declareLock]

@[simp] theorem loseLock_keeps (l : LinkId) (s : State) : KeepsOutsideCycle (loseLock l s) s := by
  simp [KeepsOutsideCycle, loseLock]

@[simp] theorem linkSymbol_keeps (l : LinkId) (x : LinkSymbol) (s : State) :
    KeepsOutsideCycle (linkSymbol l x s) s := by
  unfold linkSymbol; repeat' split
  all_goals simp [KeepsOutsideCycle]

@[simp] theorem groupOperationEnd_keeps (s : State) : KeepsOutsideCycle (groupOperationEnd s) s := by
  unfold groupOperationEnd; dsimp only; repeat' split
  all_goals simp [KeepsOutsideCycle]

/-! ## Mirror link, outputs, stores -/

@[simp] theorem reportBoard_keeps (i : BoardId) (x y : Board) (s : State) :
    KeepsAllButLoop (reportBoard i x y s) s := by
  unfold reportBoard; dsimp only; repeat' split
  all_goals simp [KeepsAllButLoop]

@[simp] theorem takeOutcome_keeps (w : Writeout) (o : BoardOutcome) (s : State) :
    KeepsQueue (takeOutcome w o s) s := by
  simp [KeepsQueue, takeOutcome]

@[simp] theorem readyTimeout_keeps (s : State) : KeepsQueue (readyTimeout s) s := by
  unfold readyTimeout; repeat' split
  all_goals simp [KeepsQueue]

@[simp] theorem ackTimeout_keeps (s : State) : KeepsQueue (ackTimeout s) s := by
  unfold ackTimeout; repeat' split
  all_goals simp [KeepsQueue]

@[simp] theorem boardAnswer_keeps (o : BoardOutcome) (s : State) : KeepsQueue (boardAnswer o s) s := by
  unfold boardAnswer; split <;> simp [KeepsQueue]

@[simp] theorem captureClose_keeps (r : CycleRecord) (s : State) : KeepsQueue (captureClose r s) s := by
  simp [KeepsQueue, captureClose]

@[simp] theorem offloadClose_keeps (c : Counter) (s : State) : KeepsQueue (offloadClose c s) s := by
  unfold offloadClose; dsimp only; repeat' split
  all_goals simp [KeepsQueue]

@[simp] theorem load_keeps (p : PortId) (x : LoadParams) (s : State) : KeepsQueue (load p x s) s := by
  unfold load; repeat' split
  all_goals simp [KeepsQueue]

@[simp] theorem loadWordWrite_keeps (s : State) : KeepsQueue (loadWordWrite s) s := by
  unfold loadWordWrite; dsimp only; repeat' split
  all_goals simp [KeepsQueue]

@[simp] theorem readBack_keeps (p : PortId) (x : ReadBackParams) (s : State) : KeepsQueue (readBack p x s) s := by
  unfold readBack; repeat' split
  all_goals simp [KeepsQueue]

@[simp] theorem takeApply_keeps (x : BitVec 9) (p : PortId) (s : State) : KeepsQueue (takeApply x p s) s := by
  simp [KeepsQueue, takeApply]

@[simp] theorem apply_keeps (p : PortId) (x : Word) (s : State) : KeepsQueue (Sys2Proof.Machine.apply p x s) s := by
  unfold apply; repeat' split
  all_goals simp [KeepsQueue]

@[simp] theorem takePendingApply_keeps (s : State) : KeepsQueue (takePendingApply s) s := by
  unfold takePendingApply; split <;> simp [KeepsQueue]

/-! ## Loop and boundary -/

@[simp] theorem flushReceivers_keeps (s : State) : KeepsQueue (flushReceivers s) s := by
  simp [KeepsQueue, flushReceivers]

@[simp] theorem takeRequest_keeps (t : RequestTarget) (p : PortId) (s : State) :
    KeepsQueue (takeRequest t p s) s := by
  simp [KeepsQueue, takeRequest]

@[simp] theorem stopCycles_keeps (s : State) : KeepsQueue (stopCycles s) s := by
  simp [KeepsQueue, stopCycles]

@[simp] theorem takeAtOnce_keeps (t : RequestTarget) (p : PortId) (s : State) : KeepsQueue (takeAtOnce t p s) s := by
  unfold takeAtOnce; dsimp only; split <;> simp [KeepsQueue]

@[simp] theorem holdRequest_keeps (t : RequestTarget) (p : PortId) (s : State) :
    KeepsQueue (holdRequest t p s) s := by
  simp [KeepsQueue, holdRequest]

@[simp] theorem loopRequest_keeps (t : RequestTarget) (p : PortId) (s : State) :
    KeepsQueue (loopRequest t p s) s := by
  unfold loopRequest; repeat' split
  all_goals simp [KeepsQueue]

@[simp] theorem startBlocks_keeps (s : State) : KeepsQueue (startBlocks s) s := by
  simp [KeepsQueue, startBlocks]

@[simp] theorem takeStart_keeps (p : PortId) (s : State) : KeepsQueue (takeStart p s) s := by
  simp [KeepsQueue, takeStart]

@[simp] theorem loopStart_keeps (p : PortId) (s : State) : KeepsQueue (loopStart p s) s := by
  unfold loopStart; repeat' split
  all_goals simp [KeepsQueue]

@[simp] theorem completeRecord_keeps (r : CycleRecord) (s : State) : KeepsQueue (completeRecord r s) s := by
  simp [KeepsQueue, completeRecord]

@[simp] theorem takePendingLoop_keeps (s : State) : KeepsQueue (takePendingLoop s) s := by
  unfold takePendingLoop; repeat' split
  all_goals simp [KeepsQueue]

@[simp] theorem takeHeldSettings_keeps (s : State) : KeepsQueue (takeHeldSettings s) s := by
  simp [KeepsQueue, takeHeldSettings]

@[simp] theorem leaveBoundary_keeps (s : State) : KeepsQueue (leaveBoundary s) s := by
  unfold leaveBoundary; split <;> simp [KeepsQueue]

@[simp] theorem boundary_keeps (s : State) : KeepsQueue (boundary s) s := by
  simp [KeepsQueue, boundary]

@[simp] theorem handResults_keeps (w : WorkingSet) (o : OpenInfo) (i : CloseInfo) (s : State) :
    KeepsQueue (handResults w o i s) s := by
  simp [KeepsQueue, handResults]

@[simp] theorem closeComputationEnd_keeps (s : State) : KeepsQueue (closeComputationEnd s) s := by
  unfold closeComputationEnd; repeat' split
  all_goals simp [KeepsQueue]

/-! ## Settings, reset, ports -/

@[simp] theorem setTiming_keeps (p : PortId) (x : TimingParams) (s : State) : KeepsQueue (setTiming p x s) s := by
  unfold setTiming; repeat' split
  all_goals simp [KeepsQueue]

@[simp] theorem setMirror_keeps (p : PortId) (x : MirrorParams) (s : State) : KeepsQueue (setMirror p x s) s := by
  unfold setMirror; repeat' split
  all_goals simp [KeepsQueue]

@[simp] theorem setCapture_keeps (p : PortId) (x : CaptureParams) (s : State) : KeepsQueue (setCapture p x s) s := by
  unfold setCapture; repeat' split
  all_goals simp [KeepsQueue]

@[simp] theorem setOffload_keeps (p : PortId) (x : OffloadParams) (s : State) : KeepsQueue (setOffload p x s) s := by
  unfold setOffload; repeat' split
  all_goals simp [KeepsQueue]

@[simp] theorem readOffload_keeps (p : PortId) (s : State) : KeepsQueue (readOffload p s) s := by
  simp [KeepsQueue, readOffload]

@[simp] theorem takeGeometry_keeps (n : Nat) (g : Quad (Bool × Byte × Nat)) (s : State) :
    KeepsQueue (takeGeometry n g s) s := by
  simp [KeepsQueue, takeGeometry]

@[simp] theorem setGeometry_keeps (p : PortId) (x : GeometryParams) (s : State) :
    KeepsQueue (setGeometry p x s) s := by
  unfold setGeometry; repeat' split
  all_goals simp [KeepsQueue]

@[simp] theorem setSlot_keeps (p : PortId) (x : SlotParams) (s : State) : KeepsQueue (setSlot p x s) s := by
  unfold setSlot; repeat' split
  all_goals simp [KeepsQueue]

@[simp] theorem setProbe_keeps (p : PortId) (m : Byte) (s : State) : KeepsQueue (setProbe p m s) s := by
  unfold setProbe; repeat' split
  all_goals simp [KeepsQueue]

@[simp] theorem resetOtherPort_keeps (p : PortId) (s : State) : KeepsQueue (resetOtherPort p s) s := by
  unfold resetOtherPort; split <;> simp [KeepsQueue]

@[simp] theorem softResetManager_keeps (s : State) : KeepsQueue (softResetManager s) s := by
  simp [KeepsQueue, softResetManager]

@[simp] theorem resetPart_keeps (p : PortId) (s : State) : KeepsQueue (resetPart p s) s := by
  simp [KeepsQueue, resetPart, softResetBlocks]

@[simp] theorem getStatus_keeps (p : PortId) (s : State) : KeepsQueue (getStatus p s) s := by
  simp [KeepsQueue, getStatus]

@[simp] theorem readCounters_keeps (p : PortId) (x : Byte) (s : State) : KeepsQueue (readCounters p x s) s := by
  unfold readCounters; repeat' split
  all_goals simp [KeepsQueue, clearCounters]

@[simp] theorem senseEvent_keeps (p : PortId) (s : State) : KeepsQueue (senseEvent p s) s := by
  simp [KeepsQueue, senseEvent]

@[simp] theorem unknownCommand_keeps (p : PortId) (x : Byte) (s : State) : KeepsQueue (unknownCommand p x s) s := by
  unfold unknownCommand; split <;> simp [KeepsQueue]

@[simp] theorem loopCommand_keeps (p : PortId) (x : Byte) (s : State) : KeepsQueue (loopCommand p x s) s := by
  unfold loopCommand; split <;> simp [KeepsQueue]

@[simp] theorem runCommand_keeps (p : PortId) (c : PortCommand) (s : State) : KeepsQueue (runCommand p c s) s := by
  unfold runCommand; split <;> simp only [KeepsQueue, getStatus_keeps, readCounters_keeps, setGeometry_keeps, setTiming_keeps,
    setSlot_keeps, setMirror_keeps, setProbe_keeps, setCapture_keeps, setOffload_keeps, load_keeps, readBack_keeps,
    apply_keeps, loopCommand_keeps, readOffload_keeps, senseEvent_keeps, resetPart_keeps, and_self]

@[simp] theorem judge_keeps (p : PortId) (c : Byte) (n : Nat) (x : List Byte) (s : State) :
    KeepsQueue (judge p c n x s) s := by
  unfold judge; repeat' split
  all_goals simp [KeepsQueue]

@[simp] theorem receiveRecord_keeps (p : PortId) (r : CommandRecord) (s : State) :
    KeepsQueue (receiveRecord p r s) s := by
  unfold receiveRecord; split <;> simp [KeepsQueue]

@[simp] theorem offerByte_keeps (p : PortId) (b : Byte) (s : State) : KeepsQueue (offerByte p b s) s := by
  unfold offerByte; split <;> simp [KeepsQueue]

@[simp] theorem commandByte_keeps (p : PortId) (b : Byte) (s : State) : KeepsQueue (commandByte p b s) s := by
  unfold commandByte; split <;> simp [KeepsQueue]

@[simp] theorem resultByte_keeps (p : PortId) (s : State) : KeepsQueue (resultByte p s) s := by
  unfold resultByte; split <;> simp [KeepsQueue]

end Sys2Proof.Machine
end

