-- ==== Sys2Proof/Laws/Cycle.lean ====
section
/-!
SUPPORT. What offers, attachment, the engine's choices and the deadline's abandonment leave of the cycle manager and the
engine: everything of the manager but the attach statuses, and the residual buffer and held contributions.
-/
namespace Sys2Proof.Machine

/-- Nothing of the cycle manager differs but the attach statuses of the open record. -/
abbrev KeepsManager (t s : State) : Prop :=
  t.manager.state = s.manager.state ∧ t.manager.timebase = s.manager.timebase ∧ t.manager.cycle = s.manager.cycle ∧
    t.manager.settings = s.manager.settings ∧ t.manager.held = s.manager.held ∧ t.manager.latch = s.manager.latch ∧
    t.manager.lineDelay = s.manager.lineDelay ∧ t.manager.period = s.manager.period ∧
    t.manager.deadline = s.manager.deadline ∧ t.manager.fallback = s.manager.fallback ∧
    t.manager.lastRecord = s.manager.lastRecord ∧ t.manager.counters = s.manager.counters ∧
    t.manager.openRecord.map OpenRecord.opened = s.manager.openRecord.map OpenRecord.opened ∧
    t.manager.openRecord.map OpenRecord.closing = s.manager.openRecord.map OpenRecord.closing

theorem KeepsManager.trans {u t s : State} (h : KeepsManager u t) (k : KeepsManager t s) : KeepsManager u s := by
  simp_all [KeepsManager]

@[simp] theorem setStatus_keepsManager (l : LinkId) (x : AttachStatus) (s : State) :
    KeepsManager (setStatus l x s) s := by
  simp [KeepsManager, setStatus, Option.map_map, Function.comp_def]

@[simp] theorem discardSlot_manager (l : LinkId) (s : State) : (discardSlot l s).manager = s.manager := by
  simp [discardSlot]

@[simp] theorem discardSlot_receivers (l : LinkId) (s : State) : (discardSlot l s).receivers = s.receivers := by
  simp [discardSlot]

@[simp] theorem abandonAtDeadline_keepsManager (l : LinkId) (s : State) :
    KeepsManager (abandonAtDeadline l s) s := by
  unfold abandonAtDeadline; split <;> simp [KeepsManager]

@[simp] theorem attach_keepsManager (l : LinkId) (e : FifoEntry) (s : State) : KeepsManager (attach l e s) s := by
  simp [KeepsManager, attach]

@[simp] theorem offerHead_keepsManager (l : LinkId) (s : State) : KeepsManager (offerHead l s) s := by
  unfold offerHead; repeat' split
  all_goals simp [KeepsManager]

@[simp] theorem takeGroup_keepsManager (l : LinkId) (s : State) : KeepsManager (takeGroup l s) s := by
  unfold takeGroup; repeat' split
  all_goals simp [KeepsManager]

@[simp] theorem engineChoose_keepsManager (s : State) : KeepsManager (engineChoose s) s := by
  unfold engineChoose; repeat' split
  all_goals simp [KeepsManager]

theorem forLinks_keepsManager (f : LinkId → State → State) (h : ∀ l s, KeepsManager (f l s) s) (ls : List LinkId)
    (s : State) : KeepsManager (forLinks f ls s) s := by
  induction ls generalizing s with
  | nil => simp [KeepsManager, forLinks]
  | cons l ls ih => exact (ih (f l s)).trans (h l s)

@[simp] theorem offerHeads_keepsManager (ls : List LinkId) (s : State) :
    KeepsManager (forLinks offerHead ls s) s := forLinks_keepsManager _ offerHead_keepsManager ls s

@[simp] theorem abandonAllAtDeadline_keepsManager (ls : List LinkId) (s : State) :
    KeepsManager (forLinks abandonAtDeadline ls s) s := forLinks_keepsManager _ abandonAtDeadline_keepsManager ls s

/-! ## The engine -/

/-- The residual capture buffer and the held contributions are unchanged. -/
abbrev KeepsResults (t s : State) : Prop := t.engine.residuals = s.engine.residuals ∧ t.engine.held = s.engine.held

@[simp] theorem setStatus_engine (l : LinkId) (x : AttachStatus) (s : State) :
    (setStatus l x s).engine = s.engine := by simp [setStatus]

@[simp] theorem setStatus_receivers (l : LinkId) (x : AttachStatus) (s : State) :
    (setStatus l x s).receivers = s.receivers := by simp [setStatus]

@[simp] theorem attach_keepsResults (l : LinkId) (e : FifoEntry) (s : State) : KeepsResults (attach l e s) s := by
  simp [KeepsResults, attach, Engine.attach]

@[simp] theorem offerHead_keepsResults (l : LinkId) (s : State) : KeepsResults (offerHead l s) s := by
  unfold offerHead; repeat' split
  all_goals simp [KeepsResults]

@[simp] theorem takeGroup_keepsResults (l : LinkId) (s : State) : KeepsResults (takeGroup l s) s := by
  unfold takeGroup; repeat' split
  all_goals simp [KeepsResults]

@[simp] theorem engineChoose_keepsResults (s : State) : KeepsResults (engineChoose s) s := by
  unfold engineChoose; repeat' split
  all_goals simp [KeepsResults]

@[simp] theorem offerHeads_keepsResults (ls : List LinkId) (s : State) :
    KeepsResults (forLinks offerHead ls s) s :=
  ⟨forLinks_keeps (fun s => s.engine.residuals) _ (fun l s => by simp) ls s,
    forLinks_keeps (fun s => s.engine.held) _ (fun l s => by simp) ls s⟩

/-! ## The close -/

/-- The manager as a close leaves it, whatever the slots do. -/
theorem closeCycle_manager (c : CloseCause) (s : State) (o : OpenRecord) (h : s.manager.openRecord = some o) :
    (closeCycle c s).manager =
      { s.manager with
        state := .closing
        deadline := none
        openRecord := some { o with closing := some (closeInfo c o s) } } := by
  simp [closeCycle, h, startComputation, treatSlots, enterClosing]

/-- The slots, the loop and the ports after a close are those the slot controller leaves. -/
theorem closeCycle_slots (c : CloseCause) (s : State) (o : OpenRecord) (h : s.manager.openRecord = some o) :
    (closeCycle c s).slots = (treatSlots o s).slots ∧ (closeCycle c s).loop = (treatSlots o s).loop ∧
      (closeCycle c s).ports = (treatSlots o s).ports := by
  simp [closeCycle, h, startComputation]

/-- The engine, the receivers and the line after a close; the close computation is in flight. -/
theorem closeCycle_engine (c : CloseCause) (s : State) (o : OpenRecord) (h : s.manager.openRecord = some o) :
    (closeCycle c s).engine = s.engine.close (closeSelections o.statuses s.slots) ∧
      (closeCycle c s).receivers = s.receivers ∧ (closeCycle c s).line = s.line ∧
      (closeCycle c s).command.working.isSome = true := by
  simp [closeCycle, h, startComputation, treatSlots, enterClosing]

/-- Treating another slot leaves a slot as it is. -/
theorem treatSlot_slots (x : LoopState) (st : Quad (Option AttachStatus)) (l : LinkId) (s : State) :
    (treatSlot x st l s).slots = s.slots.set l (closeSlot (st.get l) (s.slots.get l)).slot := by
  unfold treatSlot postSlotChange; dsimp only
  split <;> split <;> simp [quadModify]

/-- Each slot after a close is what the close makes of that slot alone (R53). -/
theorem treatSlots_get (o : OpenRecord) (s : State) (l : LinkId) :
    (treatSlots o s).slots.get l = (closeSlot (o.statuses.get l) (s.slots.get l)).slot := by
  simp only [treatSlots, links, forLinks, treatSlot_slots, enterClosing, State.onManager_slots]
  match l with
  | 0 => rfl
  | 1 => rfl
  | 2 => rfl
  | 3 => rfl

/-! ## The open -/

/-- The slots expected in a cycle that opens now (R51, R52). -/
abbrev ExpectedNow (s : State) (l : LinkId) : Prop :=
  (s.slots.get l).enabled = true ∧ (s.slots.get l).muted = false ∧
    ((s.slots.get l).cadence = 0 ∨ (s.manager.settings.mode = .lead ∧ s.manager.settings.leadSlot = l))

/-- The attach status of a slot in a new cycle record. -/
theorem newRecord_status (c : OpenCause) (b : Bool) (s : State) (l : LinkId) :
    (newRecord c b s).statuses.get l =
      if (s.slots.get l).isExpected (isLeadSlot s.manager.settings l) then some .waiting else none := by
  simp [newRecord, expectedStatuses]

theorem isExpected_iff (s : State) (l : LinkId) :
    (s.slots.get l).isExpected (isLeadSlot s.manager.settings l) = true ↔ ExpectedNow s l := by
  simp [Slot.isExpected, isLeadSlot, ExpectedNow, and_assoc]

theorem mem_links (l : LinkId) : l ∈ links := by
  match l with
  | 0 => simp [links]
  | 1 => simp [links]
  | 2 => simp [links]
  | 3 => simp [links]

/-- A new cycle has nothing to wait for exactly when no slot is expected (R13). -/
theorem allArrived_newRecord (c : OpenCause) (b : Bool) (s : State) :
    allArrived (newRecord c b s) = true ↔ ∀ l, ¬ ExpectedNow s l := by
  simp only [allArrived, List.all_eq_true, newRecord_status, ← isExpected_iff]
  constructor
  · intro h l he; have := h l (mem_links l); simp [he] at this
  · intro h l _; simp [h l]

/-- A slot that is not in the cycle is left as it is by a close. -/
theorem treatSlot_of_none (x : LoopState) (st : Quad (Option AttachStatus)) (l : LinkId) (s : State)
    (h : st.get l = none) : treatSlot x st l s = s := by
  have hc : (closeSlot none (s.slots.get l)).slot = s.slots.get l ∧
      (closeSlot none (s.slots.get l)).change = none ∧ (closeSlot none (s.slots.get l)).lost = false := by
    unfold closeSlot; split <;> simp
  unfold treatSlot
  simp [h, hc, lossTrips, postSlotChange, State.onSlot, quadModify]

/-- Everything a cycle open does (R13): the fields of the record, the manager, the slots and the engine, in both the case
with an expected slot and the case without. -/
theorem openCycle_spec (cause : OpenCause) (late : Bool) (s : State) :
    ∃ o, (openCycle cause late s).manager.openRecord = some o ∧ o.opened = (newRecord cause late s).opened ∧
      (openCycle cause late s).slots = s.slots.map Slot.advance ∧
      (openCycle cause late s).engine.residuals = [] ∧ (openCycle cause late s).engine.held = s.engine.held ∧
      (openCycle cause late s).loop = s.loop ∧ (openCycle cause late s).ports = s.ports ∧
      (openCycle cause late s).line = s.line ∧
      (openCycle cause late s).manager =
        { s.manager with
          state := (openCycle cause late s).manager.state
          cycle := nextCycle s.manager.cycle
          fallback := none
          deadline := (openCycle cause late s).manager.deadline
          openRecord := some o } ∧
      ((∃ l, ExpectedNow s l) →
        (openCycle cause late s).manager.state = .gathering ∧
          (openCycle cause late s).manager.deadline = some s.manager.settings.deadline ∧ o.closing = none ∧
          (openCycle cause late s).command = s.command ∧ (openCycle cause late s).probe = s.probe) ∧
      ((∀ l, ¬ ExpectedNow s l) →
        (openCycle cause late s).manager.state = .closing ∧ (openCycle cause late s).manager.deadline = none ∧
          (∃ info, o.closing = some info ∧ info.cause = .complete ∧ info.time = s.manager.timebase) ∧
          (openCycle cause late s).command.working.isSome = true ∧
          (openCycle cause late s).receivers = s.receivers) := by
  by_cases hA : allArrived (newRecord cause late s) = true
  · have hno := (allArrived_newRecord cause late s).1 hA
    have hst : ∀ l, (newRecord cause late s).statuses.get l = none := by
      intro l; rw [newRecord_status, if_neg]; rw [isExpected_iff]; exact hno l
    have hex : ¬ ∃ l, ExpectedNow s l := fun ⟨l, h⟩ => hno l h
    let s1 : State :=
      { s with
        manager := { s.manager with
          state := .gathering, cycle := nextCycle s.manager.cycle, openRecord := some (newRecord cause late s),
          fallback := none }
        slots := s.slots.map Slot.advance
        engine := { s.engine with residuals := [] } }
    have e : openCycle cause late s = closeCycle .complete s1 := by unfold openCycle; dsimp only; rw [if_pos hA]; rfl
    have ho : s1.manager.openRecord = some (newRecord cause late s) := rfl
    have hts : treatSlots (newRecord cause late s) s1 = enterClosing s1 := by
      simp [treatSlots, links, forLinks, treatSlot_of_none, hst]
    have hsl := closeCycle_slots .complete s1 _ ho
    rw [hts] at hsl
    have hm := closeCycle_manager .complete s1 _ ho
    have hen := closeCycle_engine .complete s1 _ ho
    rw [← e] at hsl hm hen
    have hheld : (openCycle cause late s).engine.held = s.engine.held := by
      rw [hen.1]; apply Quad.ext_get; intro l
      have : (closeSelections (newRecord cause late s).statuses s1.slots).get l ≠ .fresh := by
        simp only [closeSelections, Quad.get_tabulate, hst, closeSlot]; split
        · split <;> simp
        · simp
      simp [Engine.close, this, s1]
    refine ⟨{ newRecord cause late s with closing := some (closeInfo .complete (newRecord cause late s) s1) },
      by rw [hm], rfl, ?_, by rw [hen.1]; rfl, hheld, ?_, ?_, ?_, by rw [hm], fun h => absurd h hex, ?_⟩
    · rw [hsl.1]; rfl
    · rw [hsl.2.1]; rfl
    · rw [hsl.2.2]; rfl
    · rw [hen.2.2.1]
    · intro _; exact ⟨by rw [hm], by rw [hm], ⟨_, rfl, rfl, rfl⟩, hen.2.2.2, hen.2.1⟩
  · have hyes : ¬ ∀ l, ¬ ExpectedNow s l := fun h => hA ((allArrived_newRecord cause late s).2 h)
    let s1 : State :=
      { s with
        manager := { s.manager with
          state := .gathering, cycle := nextCycle s.manager.cycle, openRecord := some (newRecord cause late s),
          fallback := none, deadline := some s.manager.settings.deadline }
        slots := s.slots.map Slot.advance
        engine := { s.engine with residuals := [] } }
    have e : openCycle cause late s = engineChoose (forLinks offerHead links s1) := by
      unfold openCycle; dsimp only; rw [if_neg hA]; rfl
    have k1 : (openCycle cause late s).manager.openRecord.map OpenRecord.opened =
        some (newRecord cause late s).opened := by rw [e]; simp [s1]
    have k2 : (openCycle cause late s).manager.openRecord.map OpenRecord.closing =
        some (newRecord cause late s).closing := by rw [e]; simp [s1]
    obtain ⟨o, ho, hop⟩ := Option.map_eq_some_iff.1 k1
    have hcl : o.closing = none := by rw [ho] at k2; simpa [newRecord] using k2
    refine ⟨o, ho, hop, by rw [e]; simp [s1], by rw [e]; simp [s1], by rw [e]; simp [s1], by rw [e]; simp [s1],
      by rw [e]; simp [s1], by rw [e]; simp [s1], ?_, fun _ => ⟨by rw [e]; simp [s1], by rw [e]; simp [s1], hcl,
        by rw [e]; simp [s1], by rw [e]; simp [s1]⟩, fun h => absurd h hyes⟩
    have k := engineChoose_keepsManager (forLinks offerHead links s1)
    have k' := offerHeads_keepsManager links s1
    have kk := k.trans k'
    rw [← e] at kk
    obtain ⟨a1, a2, a3, a4, a5, a6, a7, a8, a9, a10, a11, a12, -, -⟩ := kk
    rw [← ho]
    generalize (openCycle cause late s).manager = m at *
    cases m
    simp_all [s1]

/-! ## What a trigger keeps -/

/-- The loop state controller, the ports, the last cycle record and the held contributions are unchanged: a trigger, an
open and the coming into force of timing settings touch none of them. -/
abbrev KeepsCommitted (t s : State) : Prop :=
  t.loop = s.loop ∧ t.ports = s.ports ∧ t.manager.lastRecord = s.manager.lastRecord ∧ t.engine.held = s.engine.held

@[simp] theorem openCycle_keepsCommitted (c : OpenCause) (b : Bool) (s : State) :
    KeepsCommitted (openCycle c b s) s := by
  obtain ⟨o, -, -, -, -, h1, h2, h3, -, h4, -⟩ := openCycle_spec c b s
  exact ⟨h2, h3, by rw [h4], h1⟩

@[simp] theorem evalLead_keepsCommitted (s : State) : KeepsCommitted (evalLead s) s := by
  unfold evalLead; split <;> simp [KeepsCommitted]

@[simp] theorem latchTrigger_keepsCommitted (c : LatchedCause) (s : State) :
    KeepsCommitted (latchTrigger c s) s := by
  unfold latchTrigger; split <;> simp [KeepsCommitted]

@[simp] theorem produceTrigger_keepsCommitted (c : LatchedCause) (s : State) :
    KeepsCommitted (produceTrigger c s) s := by
  unfold produceTrigger; split <;> simp [KeepsCommitted]

@[simp] theorem startFallback_keepsCommitted (s : State) : KeepsCommitted (startFallback s) s := by
  unfold startFallback; split <;> simp [KeepsCommitted]

@[simp] theorem dropLatch_keepsCommitted (s : State) : KeepsCommitted (dropLatch s) s := by
  simp [KeepsCommitted, dropLatch]

@[simp] theorem enterArmed_keepsCommitted (s : State) : KeepsCommitted (enterArmed s) s := by
  unfold enterArmed; dsimp only; repeat' split
  all_goals simp [KeepsCommitted]

@[simp] theorem passEdge_keepsCommitted (s : State) : KeepsCommitted (passEdge s) s := by
  unfold passEdge; repeat' split
  all_goals simp [KeepsCommitted]

@[simp] theorem filteredEdge_keepsCommitted (b : Bool) (s : State) : KeepsCommitted (filteredEdge b s) s := by
  unfold filteredEdge; split <;> simp [KeepsCommitted]

@[simp] theorem filterTakes_keepsCommitted (s : State) : KeepsCommitted (filterTakes s) s := by
  unfold filterTakes; dsimp only; split <;> simp [KeepsCommitted]

@[simp] theorem startMeasuring_keepsCommitted (s : State) : KeepsCommitted (startMeasuring s) s := by
  unfold startMeasuring; repeat' split
  all_goals simp [KeepsCommitted]

@[simp] theorem stopModeTimer_keepsCommitted (m : TriggerMode) (s : State) :
    KeepsCommitted (stopModeTimer m s) s := by
  unfold stopModeTimer; split <;> simp [KeepsCommitted]

@[simp] theorem startPeriod_keepsCommitted (s : State) : KeepsCommitted (startPeriod s) s := by
  unfold startPeriod; split <;> simp [KeepsCommitted]

@[simp] theorem changeMode_keepsCommitted (m : TriggerMode) (s : State) : KeepsCommitted (changeMode m s) s := by
  unfold changeMode; split <;> simp [KeepsCommitted]

@[simp] theorem changeFilter_keepsCommitted (t : TimingSettings) (s : State) :
    KeepsCommitted (changeFilter t s) s := by
  unfold changeFilter; split <;> simp [KeepsCommitted]

@[simp] theorem leadInForce_keepsCommitted (s : State) : KeepsCommitted (leadInForce s) s := by
  unfold leadInForce; repeat' split
  all_goals simp [KeepsCommitted]

@[simp] theorem applyTiming_keepsCommitted (t : TimingSettings) (s : State) :
    KeepsCommitted (applyTiming t s) s := by
  simp [KeepsCommitted, applyTiming]

@[simp] theorem takeHeldTiming_keepsCommitted (s : State) : KeepsCommitted (takeHeldTiming s) s := by
  unfold takeHeldTiming; split <;> simp [KeepsCommitted]

@[simp] theorem managerToIdle_keepsCommitted (s : State) : KeepsCommitted (managerToIdle s) s := by
  simp [KeepsCommitted, managerToIdle]

end Sys2Proof.Machine
end

