-- ==== Sys2Proof/Laws/Close.lean ====
section
/-!
SUPPORT. What the deadline's abandonment, the close, the offers and the engine's choice do to one link, and the working set
that a close hands to the command unit.
-/
namespace Sys2Proof.Machine

/-! ## The working set of a close (R85, R133 to R137) -/

theorem saturateWord_bounds (x : Int) : -32768 ≤ saturateWord x ∧ saturateWord x ≤ 32767 := by
  unfold saturateWord saturate; omega

theorem toInt_ofInt_saturateWord (x : Int) : (BitVec.ofInt 16 (saturateWord x)).toInt = saturateWord x := by
  have := saturateWord_bounds x
  rw [BitVec.toInt_ofInt]
  generalize saturateWord x = y at *
  simp only [Int.bmod_def]; norm_num; split <;> omega

/-- The entries of a probe slot, for an actuator below the count (R133, R134). -/
theorem probeEntry_of_lt (probes : Cells 16) (count p a : Nat) (h : a < count) :
    probeEntry probes count p a = fun e =>
      if (probeWord probes p (2 * e + 1)).toNat = a then (probeWord probes p (2 * e + 2)).toInt else 0 := by
  funext e; unfold probeEntry; dsimp only
  by_cases hq : (probeWord probes p (2 * e + 1)).toNat = a
  · simp [hq, h]
  · simp [hq]

/-- What a close hands over as the probe term is what the probe generator supplies. -/
theorem probeSupplied_start (sel : Quad Selection) (loop : LoopState) (s : State) :
    s.probeSupplied (startComputation sel loop s)
      (probeTerms s.probe.mode s.probe.position s.stores.active.probes s.command.actuatorCount)
      (handedPosition s.probe) := by
  refine ⟨fun h => ⟨by simp [handedPosition, h], by simp [startComputation, ProbeGenerator.advance, h],
    fun a => by simp [probeTerms, h]⟩, fun k h => ⟨by simp [handedPosition, h],
      by simp [startComputation, ProbeGenerator.advance, h], fun a ha => ?_, ?_⟩⟩
  · simp [probeTerms, h, Nat.not_lt.2 ha]
  · intro a base x ha hb hx
    have hamp : probeAmplitude s.stores.active.probes s.command.actuatorCount (s.probe.position / 2) a = x := by
      rw [hx, hb]; unfold probeAmplitude saturateWord saturate
      rw [probeEntry_of_lt _ _ _ _ ha, min_comm _ (32767 : Int)]; rfl
    have hb' := saturateWord_bounds
      ((List.range (probeCount s.stores.active.probes (s.probe.position / 2))).map
        (probeEntry s.stores.active.probes s.command.actuatorCount (s.probe.position / 2) a)).sum
    simp only [probeTerms, h, Cells.at_tabulate, ha, if_true, probeTerm]
    split
    · rw [show probeAmplitude _ _ _ _ = saturateWord _ from rfl, toInt_ofInt_saturateWord]; exact hamp
    · rw [toInt_ofInt_saturateWord, hamp]; unfold saturateWord saturate; rw [min_comm]

@[simp] theorem treatSlot_command (x : LoopState) (st : Quad (Option AttachStatus)) (l : LinkId) (s : State) :
    (treatSlot x st l s).command = s.command ∧ (treatSlot x st l s).probe = s.probe := by
  unfold treatSlot postSlotChange; dsimp only
  split <;> split <;> simp [requestTrip] <;> (repeat' split) <;> simp

@[simp] theorem treatSlots_command (o : OpenRecord) (s : State) :
    (treatSlots o s).command = s.command ∧ (treatSlots o s).probe = s.probe := by
  simp [treatSlots, links, forLinks, enterClosing]

/-- What a close leaves in the command unit and the probe generator (R85, R136, R137). -/
theorem closeCycle_startsComputation (c : CloseCause) (s : State) (o : OpenRecord)
    (h : s.manager.openRecord = some o) :
    s.startsComputation (closeCycle c s) o.opened.loop (closeInfo c o s) := by
  have hk : ((treatSlots o s).onEngine (Engine.close (closeSelections o.statuses s.slots))).probe = s.probe ∧
      ((treatSlots o s).onEngine (Engine.close (closeSelections o.statuses s.slots))).command = s.command ∧
      ((treatSlots o s).onEngine (Engine.close (closeSelections o.statuses s.slots))).stores = s.stores := by simp
  have hp := probeSupplied_start (closeSelections o.statuses s.slots) o.opened.loop
    ((treatSlots o s).onEngine (Engine.close (closeSelections o.statuses s.slots)))
  unfold closeCycle; rw [h]; dsimp only
  generalize (treatSlots o s).onEngine (Engine.close (closeSelections o.statuses s.slots)) = v at hk hp ⊢
  obtain ⟨h1, h2, h3⟩ := hk
  refine ⟨_, by rw [← h2]; rfl, rfl, rfl, rfl, ?_, ?_, ?_, ?_, ?_, ?_, ?_, ?_⟩
  · rw [← h3]
  · rw [← h3]
  · rw [← h3]
  · rw [← h3]
  · rw [← h3]
  · rw [← h2]
  · rw [← h2]
  · unfold State.probeSupplied at hp ⊢
    rw [h1, h2, h3] at hp ⊢
    simpa [startComputation, closeInfo, h1] using hp

/-- The blocks from which the working set is taken settle what a close starts. -/
theorem startsComputation_congr {s s' t : State} {x : LoopState} {info : CloseInfo} (h1 : s'.probe = s.probe)
    (h2 : s'.command = s.command) (h3 : s'.stores = s.stores) (h : s'.startsComputation t x info) :
    s.startsComputation t x info := by
  unfold State.startsComputation State.probeSupplied at h ⊢
  rw [h1, h2, h3] at h; exact h

/-! ## The slots at a close (R53, R54) -/

/-- The close of a slot that has arrived (R54). -/
theorem closeSlot_arrived (x : Slot) (h : x.enabled = true) :
    (closeSlot (some .arrived) x).selection = .fresh ∧
      (closeSlot (some .arrived) x).slot = { x with age := 0, state := if x.muted then x.state else .active } := by
  unfold closeSlot arriveSlot; rw [if_pos h]; cases hm : x.muted <;> simp

/-- The close of a slot that is disabled or not expected (R53). -/
theorem closeSlot_notExpected (st : Option AttachStatus) (x : Slot) (h : x.enabled = false ∨ st = none) :
    (closeSlot st x).slot = x ∧
      (closeSlot st x).selection = if x.enabled = true ∧ x.muted = true then .muted else .notExpected := by
  unfold closeSlot; cases he : x.enabled
  · simp
  · rcases h with h | h
    · simp [he] at h
    · subst h; simp

/-! ## Folds over the links -/

/-- A view of one link that the other links' steps leave alone changes only by that link's step. -/
theorem forLinks_local {α : Type} (π : State → α) (k : LinkId) (f : LinkId → State → State) (g : α → α)
    (h1 : ∀ l s, l ≠ k → π (f l s) = π s) (h2 : ∀ s, π (f k s) = g (π s)) (s : State) :
    π (forLinks f links s) = g (π s) := by
  simp only [links, forLinks]
  match k with
  | 0 => rw [h1 3 _ (by decide), h1 2 _ (by decide), h1 1 _ (by decide), h2]
  | 1 => rw [h1 3 _ (by decide), h1 2 _ (by decide), h2, h1 0 _ (by decide)]
  | 2 => rw [h1 3 _ (by decide), h2, h1 1 _ (by decide), h1 0 _ (by decide)]
  | 3 => rw [h2, h1 2 _ (by decide), h1 1 _ (by decide), h1 0 _ (by decide)]

/-- What one link's step establishes and every step keeps holds at the end. -/
theorem forLinks_establishes (P Q : State → Prop) (k : LinkId) (f : LinkId → State → State)
    (hP : ∀ l s, P s → P (f l s)) (hQ : ∀ l s, l ≠ k → Q s → Q (f l s)) (hk : ∀ s, Q s → P (f k s)) (s : State)
    (h : Q s) : P (forLinks f links s) := by
  simp only [links, forLinks]
  match k with
  | 0 => exact hP _ _ (hP _ _ (hP _ _ (hk _ h)))
  | 1 => exact hP _ _ (hP _ _ (hk _ (hQ _ _ (by decide) h)))
  | 2 => exact hP _ _ (hk _ (hQ _ _ (by decide) (hQ _ _ (by decide) h)))
  | 3 => exact hk _ (hQ _ _ (by decide) (hQ _ _ (by decide) (hQ _ _ (by decide) h)))

/-! ## The abandonment at a deadline (R18, R39, R75) -/

/-- The attach status of a slot after the deadline has abandoned its frame. -/
def statusAfterDeadline (x : Option AttachStatus) : Option AttachStatus :=
  match x with
  | some (.attached _ _) => some .abandoned
  | x => x

/-- The slot has a frame that the deadline abandons. -/
def isAttached (x : Option AttachStatus) : Bool :=
  match x with
  | some (.attached _ _) => true
  | _ => false

theorem statusOf_setStatus (l k : LinkId) (x : AttachStatus) (s : State) :
    statusOf k (setStatus l x s) =
      if k = l then (if s.manager.openRecord.isSome then some x else none) else statusOf k s := by
  unfold statusOf setStatus
  cases h : s.manager.openRecord with
  | none => simp [h]
  | some o =>
    by_cases hk : k = l
    · subst hk; simp [h]
    · simp [h, hk, Quad.get_set_ne _ _ hk]

/-- A discard notice leaves the contributions, the record and the operation of every other slot. -/
theorem discard_other (l k : LinkId) (b n : Nat) (e : Engine) (h : k ≠ l) :
    (Engine.discard l b n e).fresh.get k = e.fresh.get k ∧ (Engine.discard l b n e).records.get k = e.records.get k ∧
      (Engine.discard l b n e).held = e.held ∧
      ∀ x, e.inFlight = some x → x.slot = k → (Engine.discard l b n e).inFlight = some x := by
  have hx : ∀ x : Operation, x.slot = k → voidFor l x = x := by
    intro x hx; unfold voidFor; rw [if_neg]; rw [hx]; exact h
  unfold Engine.discard; repeat' split
  all_goals simp +contextual [Engine.discard.drop, Quad.get_set_ne _ _ h, hx]

/-- What a discard notice does to its slot, whose record is not discarded already (R75). -/
theorem discard_self (l : LinkId) (b n : Nat) (e : Engine) (r : Attachment) (h : e.records.get l = some r)
    (hr : r.state ≠ .discarded) :
    Engine.discard l b n e =
      { e with
        fresh := e.fresh.set l []
        residuals := Cells.clearRange b n e.residuals
        inFlight := e.inFlight.map (voidFor l)
        records := e.records.set l (some { r with state := .discarded }) } := by
  unfold Engine.discard; rw [h]; dsimp only
  cases hs : r.state <;> first | exact absurd hs hr | rfl

/-- Residuals that read 0 read 0 after a discard notice. -/
theorem discard_residuals (l : LinkId) (b n j : Nat) (e : Engine) (h : e.residuals.at j = 0) :
    (Engine.discard l b n e).residuals.at j = 0 := by
  unfold Engine.discard; repeat' split
  all_goals simp [Engine.discard.drop, Cells.at_clearRange, h]

/-- A void operation stays void, and no notice puts another in flight. -/
theorem discard_void (l : LinkId) (b n : Nat) (e : Engine) (x : Operation) (h : e.inFlight = some { x with isVoid := true }) :
    (Engine.discard l b n e).inFlight = some { x with isVoid := true } := by
  unfold Engine.discard; repeat' split
  all_goals simp [Engine.discard.drop, h, voidFor]

/-- The abandonment of a link's frame leaves the receiver, status, contribution and record of every other link. -/
theorem abandonAtDeadline_other (l k : LinkId) (s : State) (h : k ≠ l) :
    (abandonAtDeadline l s).receivers.get k = s.receivers.get k ∧ statusOf k (abandonAtDeadline l s) = statusOf k s ∧
      (abandonAtDeadline l s).engine.fresh.get k = s.engine.fresh.get k ∧
      (abandonAtDeadline l s).engine.records.get k = s.engine.records.get k ∧
      ∀ x, s.engine.inFlight = some x → x.slot = k → (abandonAtDeadline l s).engine.inFlight = some x := by
  unfold abandonAtDeadline; split
  · obtain ⟨h1, h2, -, h3⟩ := discard_other l k (slopeBase s.slots l) (s.slots.get l).slopeCount s.engine h
    refine ⟨by simp [Quad.get_set_ne _ _ h, quadModify], ?_, ?_, ?_, ?_⟩
    · rw [statusOf_setStatus, if_neg h]; rfl
    · simpa [discardSlot] using h1
    · simpa [discardSlot] using h2
    · simpa [discardSlot] using h3
  all_goals exact ⟨rfl, rfl, rfl, rfl, fun x hx _ => hx⟩

/-- What the abandonment does to its link: nothing unless its slot is ATTACHED (R18, R39, R75). -/
theorem abandonAtDeadline_self (l : LinkId) (s : State) :
    (abandonAtDeadline l s).receivers.get l =
        (if isAttached (statusOf l s) then (s.receivers.get l).abandonDeadline else s.receivers.get l) ∧
      statusOf l (abandonAtDeadline l s) = statusAfterDeadline (statusOf l s) ∧
      (abandonAtDeadline l s).engine =
        (if isAttached (statusOf l s) then
          Engine.discard l (slopeBase s.slots l) (s.slots.get l).slopeCount s.engine else s.engine) := by
  unfold abandonAtDeadline; split
  · next h =>
    have : s.manager.openRecord.isSome = true := by
      unfold statusOf at h; cases ho : s.manager.openRecord <;> simp [ho] at h ⊢
    simp [h, isAttached, statusAfterDeadline, statusOf_setStatus, discardSlot, this]
  all_goals (next h => simp [h, isAttached, statusAfterDeadline])

/-- The receiver of a link after the deadline's abandonment. -/
theorem abandonAll_receivers (s : State) (k : LinkId) :
    (forLinks abandonAtDeadline links s).receivers.get k =
      if isAttached (statusOf k s) then (s.receivers.get k).abandonDeadline else s.receivers.get k := by
  have := forLinks_local (fun s => (s.receivers.get k, statusOf k s)) k abandonAtDeadline
    (fun x => (if isAttached x.2 then x.1.abandonDeadline else x.1, statusAfterDeadline x.2))
    (fun l s h => by simp [abandonAtDeadline_other l k s h.symm]) (fun s => by simp [abandonAtDeadline_self]) s
  exact congrArg Prod.fst this

/-- The attach status of a slot after the deadline's abandonment. -/
theorem abandonAll_status (s : State) (k : LinkId) :
    statusOf k (forLinks abandonAtDeadline links s) = statusAfterDeadline (statusOf k s) :=
  forLinks_local (statusOf k) k abandonAtDeadline statusAfterDeadline
    (fun l s h => (abandonAtDeadline_other l k s h.symm).2.1) (fun s => (abandonAtDeadline_self k s).2.1) s

/-- The engine after the deadline's abandonment, seen from a slot that is not ATTACHED. -/
theorem abandonAll_notAttached (s : State) (k : LinkId) (h : isAttached (statusOf k s) = false) :
    (forLinks abandonAtDeadline links s).engine.fresh.get k = s.engine.fresh.get k ∧
      ∀ x, s.engine.inFlight = some x → x.slot = k →
        (forLinks abandonAtDeadline links s).engine.inFlight = some x := by
  have hs : ∀ u, isAttached (statusOf k u) = false → (abandonAtDeadline k u).engine = u.engine := by
    intro u hu; rw [(abandonAtDeadline_self k u).2.2, hu]; rfl
  have hst : ∀ u, isAttached (statusOf k u) = false → isAttached (statusOf k (abandonAtDeadline k u)) = false := by
    intro u hu; rw [(abandonAtDeadline_self k u).2.1]
    cases hx : statusOf k u with
    | none => rfl
    | some y => cases y <;> simp_all [isAttached, statusAfterDeadline]
  have step : ∀ l u, isAttached (statusOf k u) = false → isAttached (statusOf k (abandonAtDeadline l u)) = false ∧
      (abandonAtDeadline l u).engine.fresh.get k = u.engine.fresh.get k ∧
      ∀ x, u.engine.inFlight = some x → x.slot = k → (abandonAtDeadline l u).engine.inFlight = some x := by
    intro l u hu
    by_cases hl : k = l
    · subst hl; exact ⟨hst u hu, by rw [hs u hu], fun x hx _ => by rw [hs u hu]; exact hx⟩
    · obtain ⟨-, h2, h3, -, h5⟩ := abandonAtDeadline_other l k u hl
      exact ⟨by rw [h2]; exact hu, h3, h5⟩
  have all : ∀ (ls : List LinkId) u, isAttached (statusOf k u) = false →
      (forLinks abandonAtDeadline ls u).engine.fresh.get k = u.engine.fresh.get k ∧
      ∀ x, u.engine.inFlight = some x → x.slot = k → (forLinks abandonAtDeadline ls u).engine.inFlight = some x := by
    intro ls
    induction ls with
    | nil => intro u _; exact ⟨rfl, fun x hx _ => hx⟩
    | cons l ls ih =>
      intro u hu
      obtain ⟨h1, h2, h3⟩ := step l u hu
      obtain ⟨g1, g2⟩ := ih (abandonAtDeadline l u) h1
      exact ⟨g1.trans h2, fun x hx hk => g2 x (h3 x hx hk) hk⟩
  exact all links s h

/-- The engine after the deadline's abandonment, seen from an ATTACHED slot whose record is not discarded already: its fresh
contribution and its residuals are 0, and its operation in flight is void (R75). -/
theorem abandonAll_attached (s : State) (k : LinkId) (r : Attachment) (h : isAttached (statusOf k s) = true)
    (hr : s.engine.records.get k = some r) (hd : r.state ≠ .discarded) :
    (forLinks abandonAtDeadline links s).engine.fresh.get k = [] ∧
      (∀ j, slopeBase s.slots k ≤ j → j < slopeBase s.slots k + (s.slots.get k).slopeCount →
        (forLinks abandonAtDeadline links s).engine.residuals.at j = 0) ∧
      ∀ x, s.engine.inFlight = some x → x.slot = k →
        (forLinks abandonAtDeadline links s).engine.inFlight = some { x with isVoid := true } := by
  have eng : ∀ l u, ∃ e, (abandonAtDeadline l u).engine = e ∧
      (e = u.engine ∨ e = Engine.discard l (slopeBase u.slots l) (u.slots.get l).slopeCount u.engine) := by
    intro l u; refine ⟨_, rfl, ?_⟩
    rw [(abandonAtDeadline_self l u).2.2]; split
    · exact Or.inr rfl
    · exact Or.inl rfl
  have res := forLinks_establishes
    (fun u => u.engine.fresh.get k = [] ∧
      (∀ j, slopeBase s.slots k ≤ j → j < slopeBase s.slots k + (s.slots.get k).slopeCount → u.engine.residuals.at j = 0) ∧
      (∀ x, s.engine.inFlight = some x → x.slot = k → u.engine.inFlight = some { x with isVoid := true }))
    (fun u => isAttached (statusOf k u) = true ∧ u.engine.records.get k = some r ∧ u.slots = s.slots ∧
      ∀ x, s.engine.inFlight = some x → x.slot = k → u.engine.inFlight = some x) k abandonAtDeadline
    (by
      rintro l u ⟨h1, h2, h3⟩
      obtain ⟨e, he, hc⟩ := eng l u
      rw [he]
      rcases hc with rfl | rfl
      · exact ⟨h1, h2, h3⟩
      · refine ⟨?_, fun j a b => discard_residuals _ _ _ _ _ (h2 j a b), fun x a b => discard_void _ _ _ _ _ (h3 x a b)⟩
        by_cases hl : k = l
        · subst hl; unfold Engine.discard; repeat' split
          all_goals simp [Engine.discard.drop, h1]
        · rw [(discard_other l k _ _ _ hl).1, h1])
    (by
      rintro l u hl ⟨h1, h2, h3, h4⟩
      obtain ⟨-, g2, g3, g4, g5⟩ := abandonAtDeadline_other l k u hl.symm
      exact ⟨by rw [g2]; exact h1, by rw [g4]; exact h2, by rw [← h3]; simp, fun x a b => g5 x (h4 x a b) b⟩)
    (by
      rintro u ⟨h1, h2, h3, h4⟩
      rw [(abandonAtDeadline_self k u).2.2, if_pos h1, discard_self k _ _ _ r h2 hd, h3]
      refine ⟨by simp, fun j a b => by simp [Cells.at_clearRange, a, b], fun x a b => ?_⟩
      simp [h4 x a b, voidFor, b])
    s ⟨h, hr, rfl, fun x a _ => a⟩
  exact res

end Sys2Proof.Machine
end

