-- ==== Sys2Proof/Laws/Offers.lean ====
section
/-!
SUPPORT. What an offer and the engine's choice do to one link: its receiver, the attach status of its slot, its attachment
record and its fresh contribution; and the changes of a FIFO that set nothing else off.
-/
namespace Sys2Proof.Machine

/-- What an offer or a choice of the engine can change of link `k`. -/
abbrev linkView (k : LinkId) (s : State) : Receiver × Option AttachStatus × Option Attachment × Cells 48 :=
  (s.receivers.get k, statusOf k s, s.engine.records.get k, s.engine.fresh.get k)

theorem statusOf_onReceiver (l k : LinkId) (f : Receiver → Receiver) (s : State) :
    statusOf k (s.onReceiver l f) = statusOf k s := rfl

theorem statusOf_onEngine (k : LinkId) (f : Engine → Engine) (s : State) : statusOf k (s.onEngine f) = statusOf k s := rfl

/-- An attachment leaves every other link. -/
theorem attach_other (l k : LinkId) (e : FifoEntry) (s : State) (h : k ≠ l) :
    linkView k (attach l e s) = linkView k s := by
  simp only [linkView, attach, statusOf_onReceiver, statusOf_onEngine, statusOf_setStatus, if_neg h]
  simp [Engine.attach, quadModify, Quad.get_set_ne _ _ h]

/-- What an attachment does to its link (R15, R41, R67). -/
theorem attach_self (l : LinkId) (e : FifoEntry) (s : State) (h : s.manager.openRecord.isSome = true) :
    linkView l (attach l e s) =
      ({ s.receivers.get l with fifo := attachHead (s.receivers.get l).fifo, attachedSeq := e.sequence },
        some (.attached e.verified false),
        some { sequence := e.sequence, groups := (s.slots.get l).slopeCount / Config.groupSize, done := 0,
               state := .accumulating }, []) := by
  simp only [linkView, attach, statusOf_onReceiver, statusOf_onEngine, statusOf_setStatus, if_true, h]
  simp [Engine.attach, quadModify]

/-- An offer leaves every other link. -/
theorem offerHead_other (l k : LinkId) (s : State) (h : k ≠ l) : linkView k (offerHead l s) = linkView k s := by
  unfold offerHead; repeat' split
  · rfl
  · exact attach_other _ _ _ _ h
  · rfl

/-- An offer to a manager that is not GATHERING, or for a slot that is not WAITING, does nothing (R15). -/
theorem offerHead_refused (l : LinkId) (s : State) (h : s.manager.state ≠ .gathering ∨ statusOf l s ≠ some .waiting) :
    offerHead l s = s := by
  unfold offerHead; repeat' split
  · rfl
  · next h1 h2 h3 _ => rcases h with h | h <;> contradiction
  · rfl

/-- An empty FIFO offers nothing. -/
theorem offerHead_empty (l : LinkId) (s : State) (h : (s.receivers.get l).fifo = []) : offerHead l s = s := by
  unfold offerHead; rw [h]; split
  · next h2 _ => cases h2
  · rfl

/-- The head frame of a WAITING slot attaches in GATHERING (R15). -/
theorem offerHead_attaches (l : LinkId) (s : State) (e : FifoEntry) (rest : List FifoEntry)
    (h1 : s.manager.state = .gathering) (h2 : statusOf l s = some .waiting)
    (h3 : (s.receivers.get l).fifo = e :: rest) (h4 : e.attached = false) : offerHead l s = attach l e s := by
  unfold offerHead; rw [h1, h2, h3]; simp [h4]

/-- The engine's taking of a group leaves every other link. -/
theorem takeGroup_other (l k : LinkId) (s : State) (h : k ≠ l) : linkView k (takeGroup l s) = linkView k s := by
  unfold takeGroup; repeat' split
  · rfl
  · rfl
  · rw [offerHead_other _ _ _ h]
    simp only [linkView, statusOf_onReceiver, statusOf_onEngine]
    simp [quadModify, Quad.get_set_ne _ _ h]

/-- The engine's taking of a group of a slot that is not WAITING keeps all but the FIFO and the flow symbol of its link. -/
theorem takeGroup_self (l : LinkId) (s : State) (h : statusOf l s ≠ some .waiting) :
    (linkView l (takeGroup l s)).2 = (linkView l s).2 ∧
      ((takeGroup l s).receivers.get l).attachedSeq = (s.receivers.get l).attachedSeq := by
  unfold takeGroup; repeat' split
  · exact ⟨rfl, rfl⟩
  · exact ⟨rfl, rfl⟩
  · rw [offerHead_refused _ _ (Or.inr (by simpa only [statusOf_onReceiver, statusOf_onEngine] using h))]
    simp only [statusOf_onReceiver, statusOf_onEngine]
    simp [quadModify, Receiver.withFewer]

/-- The arbiter chooses a candidate (R69). -/
theorem arbiterChoice_isCandidate (s : State) (l : LinkId) (h : arbiterChoice s = some l) : isCandidate s l = true :=
  List.find?_some h

/-- Without a candidate the arbiter chooses nothing. -/
theorem arbiterChoice_none (s : State) (h : ∀ k, isCandidate s k = false) : arbiterChoice s = none := by
  unfold arbiterChoice; rw [List.find?_eq_none]; intro x _; simp [h x]

/-- The engine's choice leaves a link that has no candidate. -/
theorem engineChoose_other (k : LinkId) (s : State) (h : isCandidate s k = false) :
    linkView k (engineChoose s) = linkView k s := by
  unfold engineChoose; repeat' split
  · rfl
  · rfl
  · next l hl =>
    apply takeGroup_other; intro hk; subst hk
    rw [arbiterChoice_isCandidate _ _ hl] at h; cases h

/-- The engine's choice keeps the status, the record and the fresh contribution of a slot that is not WAITING. -/
theorem engineChoose_self (k : LinkId) (s : State) (h : statusOf k s ≠ some .waiting) :
    (linkView k (engineChoose s)).2 = (linkView k s).2 ∧
      ((engineChoose s).receivers.get k).attachedSeq = (s.receivers.get k).attachedSeq := by
  unfold engineChoose; repeat' split
  · exact ⟨rfl, rfl⟩
  · exact ⟨rfl, rfl⟩
  · next l _ =>
    by_cases hk : k = l
    · subst hk; exact takeGroup_self _ _ h
    · have := takeGroup_other l k s hk
      exact ⟨by rw [this], congrArg (fun x => x.1.attachedSeq) this⟩

/-- A busy engine, or one without a candidate, makes no choice (R70). -/
theorem engineChoose_settled (s : State) (h : s.engine.inFlight ≠ none ∨ ∀ k, isCandidate s k = false) :
    engineChoose s = s := by
  unfold engineChoose; split
  · rfl
  · next hn =>
    rcases h with h | h
    · contradiction
    · rw [arbiterChoice_none s h]

/-! ## A cycle opens: the statuses of its slots (R13, R15, R67) -/

/-- The offers of an opening cycle leave a link whose FIFO is empty. -/
theorem offers_empty (s : State) (k : LinkId) (hf : (s.receivers.get k).fifo = []) :
    linkView k (forLinks offerHead links s) = linkView k s := by
  have step : ∀ u, linkView k u = linkView k s → linkView k (offerHead k u) = linkView k s := by
    intro u hu
    have : (u.receivers.get k).fifo = [] := by rw [← hf]; exact congrArg (fun x => x.1.fifo) hu
    rw [offerHead_empty _ _ this]; exact hu
  exact forLinks_establishes (fun u => linkView k u = linkView k s) (fun u => linkView k u = linkView k s) k offerHead
    (fun l u hu => by
      by_cases hl : k = l
      · subst hl; exact step u hu
      · rw [offerHead_other _ _ _ hl]; exact hu)
    (fun l u hl hu => by rw [offerHead_other _ _ _ hl.symm]; exact hu) step s rfl

/-- The offers of an opening cycle attach the frame first in the FIFO of a WAITING slot. -/
theorem offers_attach (s : State) (k : LinkId) (e : FifoEntry) (rest : List FifoEntry)
    (h1 : s.manager.state = .gathering) (h2 : statusOf k s = some .waiting)
    (h3 : s.manager.openRecord.isSome = true) (hf : (s.receivers.get k).fifo = e :: rest) (ha : e.attached = false) :
    linkView k (forLinks offerHead links s) = linkView k (attach k e s) := by
  have keepM : ∀ l u, (offerHead l u).manager.state = u.manager.state ∧
      (offerHead l u).manager.openRecord.isSome = u.manager.openRecord.isSome ∧ (offerHead l u).slots = u.slots := by
    intro l u
    obtain ⟨a, -, -, -, -, -, -, -, -, -, -, -, b, -⟩ := offerHead_keepsManager l u
    refine ⟨a, ?_, by simp⟩
    have := congrArg Option.isSome b
    rwa [Option.isSome_map, Option.isSome_map] at this
  exact forLinks_establishes (fun u => linkView k u = linkView k (attach k e s))
    (fun u => linkView k u = linkView k s ∧ u.manager.state = .gathering ∧ u.manager.openRecord.isSome = true ∧
      u.slots = s.slots) k offerHead
    (fun l u hu => by
      by_cases hl : k = l
      · subst hl
        rw [offerHead_refused _ _ (Or.inr ?_)]
        · exact hu
        · have : statusOf k u = some (.attached e.verified false) := by
            have := congrArg (fun x => x.2.1) hu
            rw [attach_self k e s h3] at this; exact this
          rw [this]; simp
      · rw [offerHead_other _ _ _ hl]; exact hu)
    (fun l u hl hu => by
      obtain ⟨g1, g2, g3⟩ := keepM l u
      exact ⟨by rw [offerHead_other _ _ _ hl.symm]; exact hu.1, g1.trans hu.2.1, g2.trans hu.2.2.1,
        g3.trans hu.2.2.2⟩)
    (fun u hu => by
      obtain ⟨hu1, hu2, hu3, hu4⟩ := hu
      have hr : u.receivers.get k = s.receivers.get k := congrArg (fun x => x.1) hu1
      rw [offerHead_attaches k u e rest hu2 (by rw [← h2]; exact congrArg (fun x => x.2.1) hu1)
        (by rw [hr]; exact hf) ha, attach_self k e u hu3, attach_self k e s h3, hr, hu4]) s ⟨rfl, h1, h3, rfl⟩

/-- A WAITING slot without a frame WAITS on when the cycle has opened, and its receiver stays. -/
theorem opened_waiting (s : State) (k : LinkId) (h : statusOf k s = some .waiting) (hf : (s.receivers.get k).fifo = []) :
    statusOf k (engineChoose (forLinks offerHead links s)) = some .waiting ∧
      (engineChoose (forLinks offerHead links s)).receivers.get k = s.receivers.get k := by
  have hv := offers_empty s k hf
  have hc : isCandidate (forLinks offerHead links s) k = false := by
    have : ((forLinks offerHead links s).receivers.get k).fifo = [] := by
      rw [← hf]; exact congrArg (fun x => x.1.fifo) hv
    unfold isCandidate; rw [this]; cases (forLinks offerHead links s).engine.records.get k <;> rfl
  have := (engineChoose_other k _ hc).trans hv
  exact ⟨by rw [← h]; exact congrArg (fun x => x.2.1) this, congrArg (fun x => x.1) this⟩

/-- The link of a WAITING slot with a frame first in its FIFO, when the cycle has opened: the frame is attached, and its
entry has the groups it had but for what the engine takes. -/
theorem opened_attached (s : State) (k : LinkId) (e : FifoEntry) (rest : List FifoEntry)
    (h1 : s.manager.state = .gathering) (h2 : statusOf k s = some .waiting)
    (h3 : s.manager.openRecord.isSome = true) (hf : (s.receivers.get k).fifo = e :: rest) (ha : e.attached = false) :
    statusOf k (engineChoose (forLinks offerHead links s)) = some (.attached e.verified false) ∧
      ((engineChoose (forLinks offerHead links s)).receivers.get k).attachedSeq = e.sequence ∧
      (engineChoose (forLinks offerHead links s)).engine.records.get k =
        some { sequence := e.sequence, groups := (s.slots.get k).slopeCount / Config.groupSize, done := 0,
               state := .accumulating } ∧
      (engineChoose (forLinks offerHead links s)).engine.fresh.get k = [] ∧
      (e.groups = [] → ((engineChoose (forLinks offerHead links s)).receivers.get k).fifo =
        { e with attached := true } :: rest) := by
  have hv := offers_attach s k e rest h1 h2 h3 hf ha
  rw [attach_self k e s h3] at hv
  have hst : statusOf k (forLinks offerHead links s) = some (.attached e.verified false) := congrArg (fun x => x.2.1) hv
  have hfi : ((forLinks offerHead links s).receivers.get k).fifo = { e with attached := true } :: rest := by
    have := congrArg (fun x => x.1.fifo) hv
    simpa [hf, attachHead] using this
  obtain ⟨g1, g2⟩ := engineChoose_self k (forLinks offerHead links s) (by rw [hst]; simp)
  refine ⟨(congrArg (fun x => x.1) g1).trans hst, ?_, (congrArg (fun x => x.2.1) g1).trans (congrArg (fun x => x.2.2.1) hv),
    (congrArg (fun x => x.2.2) g1).trans (congrArg (fun x => x.2.2.2) hv), fun hg => ?_⟩
  · rw [g2]; exact congrArg (fun x => x.1.attachedSeq) hv
  · have hc : isCandidate (forLinks offerHead links s) k = false := by
      unfold isCandidate; rw [hfi]; cases (forLinks offerHead links s).engine.records.get k <;> simp [hg]
    rw [← hfi]; exact congrArg (fun x => x.1.fifo) (engineChoose_other k _ hc)

/-- The offers and the engine's choice leave the status of a slot that is not WAITING. -/
theorem offers_status (s : State) (k : LinkId) (h : statusOf k s ≠ some .waiting) :
    statusOf k (engineChoose (forLinks offerHead links s)) = statusOf k s := by
  have hv : statusOf k (forLinks offerHead links s) = statusOf k s :=
    forLinks_establishes (fun u => statusOf k u = statusOf k s) (fun u => statusOf k u = statusOf k s) k offerHead
      (fun l u hu => by
        by_cases hl : k = l
        · subst hl; rw [offerHead_refused _ _ (Or.inr (by rw [hu]; exact h))]; exact hu
        · exact (congrArg (fun x => x.2.1) (offerHead_other l k u hl)).trans hu)
      (fun l u hl hu => (congrArg (fun x => x.2.1) (offerHead_other l k u hl.symm)).trans hu)
      (fun u hu => by rw [offerHead_refused _ _ (Or.inr (by rw [hu]; exact h))]; exact hu) s rfl
  exact (congrArg (fun x => x.1) (engineChoose_self k _ (by rw [hv]; exact h)).1).trans hv

/-! ## A FIFO that changes and sets nothing else off -/

/-- A receiver's change that leaves its FIFO without the frames that attach, open a cycle or give the engine a group sets
nothing else off where the state was settled at its link. -/
theorem afterDeparture_settled (l : LinkId) (s u : State) (h : s.settledAt l) (hm : u.manager.state = s.manager.state)
    (hs : u.manager.settings = s.manager.settings) (ho : u.manager.openRecord = s.manager.openRecord)
    (hsl : u.slots = s.slots) (he : u.engine = s.engine) (hr : ∀ k, k ≠ l → u.receivers.get k = s.receivers.get k)
    (hf : (s.receivers.get l).fifo = [] → (u.receivers.get l).fifo = [])
    (hc : isCandidate s l = false → isCandidate u l = false) : afterDeparture l u = u := by
  obtain ⟨h1, h2, h3⟩ := h
  have e1 : offerHead l u = u := by
    apply offerHead_refused
    rcases h1 with h1 | h1
    · left; rw [hm]; exact h1
    · right; unfold statusOf; rw [ho]
      cases hq : s.manager.openRecord with
      | none => simp
      | some o => exact h1 o hq
  have e2 : evalLead u = u := by
    unfold evalLead; rw [if_neg]; unfold leadCondition; rw [hm, hs, hsl]
    rcases h2 with h2 | h2 | h2 | h2
    · simp [h2]
    · simp [h2]
    · simp [h2]
    · have : (u.receivers.get s.manager.settings.leadSlot).fifo = [] := by
        by_cases hl : s.manager.settings.leadSlot = l
        · rw [hl] at h2 ⊢; exact hf h2
        · rw [hr _ hl]; exact h2
      simp [this]
  unfold afterDeparture; rw [e1, e2]
  apply engineChoose_settled
  rw [he]
  rcases h3 with h3 | h3
  · exact Or.inl h3
  · right; intro k
    by_cases hk : k = l
    · subst hk; exact hc (h3 k)
    · rw [← h3 k]; unfold isCandidate; rw [he, hr k hk]

end Sys2Proof.Machine
end

