-- ==== Sys2Proof/Laws/Arbiter.lean ====
section
/-!
SUPPORT. The engine's choice: whom the arbiter serves, and the operation that starts.
-/
namespace Sys2Proof.Machine

theorem residualsFrom_length (refs : Cells 16) (j : Nat) (xs : List Word) :
    (residualsFrom refs j xs).length = xs.length := by
  induction xs generalizing j with
  | nil => rfl
  | cons x xs ih => simp [residualsFrom, ih]

theorem residualsFrom_getD (refs : Cells 16) (j k : Nat) (xs : List Word) (h : k < xs.length) :
    (residualsFrom refs j xs).getD k 0 = residualOf (xs.getD k 0) (storeWord .refslopes refs (j + k)) := by
  induction xs generalizing j k with
  | nil => simp at h
  | cons x xs ih => cases k with
    | zero => simp [residualsFrom]
    | succ k => simp [residualsFrom] at *; rw [ih _ _ h]; congr 2; omega

/-- A residual is the exact difference, saturated (R72). -/
theorem toInt_residualOf (x y : Word) : (residualOf x y).toInt = max (-32768) (min (x.toInt - y.toInt) 32767) :=
  toInt_ofInt_saturateWord _

/-- A group sum as a sum over the slopes of the group (R73). -/
theorem groupSum_eq (m : Cells 16) (a j : Nat) (xs : List Word) :
    groupSum m a j xs = ((List.range xs.length).map (fun k =>
      (xs.getD k 0).toInt * (storeWord .matrix m ((j + k) * 1024 + a)).toInt)).sum := by
  induction xs generalizing j with
  | nil => rfl
  | cons x xs ih =>
    have hk : ∀ k, j + 1 + k = j + (k + 1) := fun k => by ac_rfl
    simp only [groupSum, List.length_cons, List.range_succ_eq_map, List.map_cons, List.map_map, List.sum_cons, ih, hk]
    rfl

/-- A sum of `n` terms within ±`b` lies within ±`n * b`. -/
theorem sum_bounds (f : Nat → Int) (b : Int) (h : ∀ k, -b ≤ f k ∧ f k ≤ b) (n : Nat) :
    -(n * b) ≤ ((List.range n).map f).sum ∧ ((List.range n).map f).sum ≤ n * b := by
  induction n with
  | zero => simp
  | succ n ih =>
    rw [List.range_succ, List.map_append, List.sum_append]; simp
    have := h n; constructor <;> nlinarith

/-- The operation on a whole group: its residuals and its exact sums (R71 to R73). -/
theorem groupOperation_spec (c : Stores) (n : Nat) (l : LinkId) (i j : Nat) (g : List Word) (hg : g.length = 32) :
    (groupOperation c n l i j g).residuals.length = 32 ∧
      (∀ k, k < 32 → ((groupOperation c n l i j g).residuals.getD k 0).toInt =
        max (-32768) (min ((g.getD k 0).toInt - (storeWord .refslopes c.refslopes (j + k)).toInt) 32767)) ∧
      (∀ a, a < n → ((groupOperation c n l i j g).sums.at a).toInt =
        ((List.range 32).map (fun k => ((groupOperation c n l i j g).residuals.getD k 0).toInt *
          (storeWord .matrix c.matrix ((j + k) * 1024 + a)).toInt)).sum) ∧
      ∀ a, n ≤ a → (groupOperation c n l i j g).sums.at a = 0 := by
  have hl : (residualsFrom c.refslopes j g).length = 32 := by rw [residualsFrom_length, hg]
  refine ⟨hl, fun k hk => ?_, fun a ha => ?_, fun a ha => ?_⟩
  · simp only [groupOperation]; rw [residualsFrom_getD _ _ _ _ (by omega), toInt_residualOf]
  · simp only [groupOperation, Cells.at_tabulate, ha, if_true]
    rw [groupSum_eq, hl, BitVec.toInt_ofInt]
    have b := sum_bounds (fun k => ((residualsFrom c.refslopes j g).getD k 0).toInt *
        (storeWord .matrix c.matrix ((j + k) * 1024 + a)).toInt) (2 ^ 30) (by
      intro k
      generalize (List.getD _ _ _) = x
      generalize (storeWord _ _ _) = y
      have hx := x.toInt_lt; have hx' := x.le_toInt; have hy := y.toInt_lt; have hy' := y.le_toInt
      norm_num at *
      constructor <;> nlinarith) 32
    norm_num at b
    apply Int.bmod_eq_of_le <;> norm_num <;> omega
  · simp only [groupOperation, Cells.at_tabulate]; rw [if_neg (by omega)]

/-- The arbiter chooses the first candidate from the pointer on (R69). -/
theorem arbiterChoice_first (s : State) (n : LinkId) (h : isCandidate s (s.engine.pointer + n) = true)
    (hb : ∀ m, m < n → isCandidate s (s.engine.pointer + m) = false) :
    arbiterChoice s = some (s.engine.pointer + n) := by
  unfold arbiterChoice searchOrder
  have h0 : s.engine.pointer + 0 = s.engine.pointer := by simp
  fin_cases n
  · simp [h0] at h ⊢; simp [h]
  · have := hb 0 (by decide); simp at this h; simp [this, h]
  · have a := hb 0 (by decide); have b := hb 1 (by decide); simp at a b h; simp [a, b, h]
  · have a := hb 0 (by decide); have b := hb 1 (by decide); have c := hb 2 (by decide)
    simp at a b c h; simp [a, b, c, h]

/-- The choice of an engine with no operation in flight (R68 to R73). -/
theorem engineChoose_chooses (u : State) (h : u.engine.inFlight = none) : u.engineChooses (engineChoose u) := by
  refine ⟨fun hn => engineChoose_settled u (Or.inr hn), ?_⟩
  intro n l e g gs rest left hl hc hb hf hg hlen hleft hw
  subst hl
  have hop := groupOperation_spec u.stores.active u.command.actuatorCount (u.engine.pointer + n) e.taken
    (slopeBase u.slots (u.engine.pointer + n) + Config.groupSize * e.taken) g hlen
  refine ⟨_, rfl, rfl, rfl, rfl, hop.1, hop.2.1, hop.2.2.1, hop.2.2.2, ?_⟩
  unfold engineChoose; rw [h]; dsimp only; rw [arbiterChoice_first u n hc hb]; dsimp only
  unfold takeGroup; rw [hf]; dsimp only; rw [hg]; dsimp only
  rw [offerHead_refused]
  · have : takeOldest (e :: rest) = left := by
      rw [hleft]; unfold takeOldest; simp [hg]
    rw [this]; rfl
  · rcases hw with hw | hw
    · exact Or.inl hw
    · right; unfold statusOf; simp only [State.onReceiver_manager, State.onEngine_manager]
      split
      · simp
      · next o ho => exact hw o ho

end Sys2Proof.Machine
end

