-- ==== Sys2Proof/Laws/Boundary.lean ====
section
/-!
SUPPORT. The laws of commands taken at a port, of events and of the boundary: what each stage of the boundary changes,
so that a statement about CLOSE_COMPUTATION_END reads it off stage by stage.
-/
namespace Sys2Proof.Machine

/-! ## Ports -/

/-- A command taken at a port that is ready makes its effect. -/
theorem arrive_ready {s : State} {p : PortId} {f : State → State} (h0 : s.resetActs = false)
    (h1 : (s.ports.get p).takesCommand = true) : s.unlessReset (State.arrive p f) = .next (f s) := by
  simp [State.unlessReset, State.arrive, h0, h1]

/-- A command taken while the reset acts has no effect. -/
theorem unlessReset_resetActs {s : State} {f : State → State} (h : s.resetActs = true) :
    s.unlessReset f = .next s := by simp [State.unlessReset, h]

/-- A command taken while no reset acts has its effect. -/
theorem unlessReset_running {s : State} {f : State → State} (h : s.resetActs = false) :
    s.unlessReset f = .next (f s) := by simp [State.unlessReset, h]

/-- Two changes of one port are one change. -/
theorem onPort_onPort (s : State) (p : PortId) (f g : Port → Port) :
    (s.onPort p f).onPort p g = s.onPort p (fun q => g (f q)) := by simp [State.onPort]

/-- Changes of a port that agree on what it holds agree. -/
theorem onPort_congr (s : State) (p : PortId) (f g : Port → Port) (h : f (s.ports.get p) = g (s.ports.get p)) :
    s.onPort p f = s.onPort p g := by simp [State.onPort, h]

/-- Two changes of one receiver are one change. -/
theorem onReceiver_onReceiver (s : State) (l : LinkId) (f g : Receiver → Receiver) :
    (s.onReceiver l f).onReceiver l g = s.onReceiver l (fun r => g (f r)) := by simp [State.onReceiver]

/-- Changes of a receiver that agree on what it holds agree. -/
theorem onReceiver_congr (s : State) (l : LinkId) (f g : Receiver → Receiver)
    (h : f (s.receivers.get l) = g (s.receivers.get l)) : s.onReceiver l f = s.onReceiver l g := by
  simp [State.onReceiver, quadModify, h]

/-! ## Events (R180) -/

/-- A posted event changes neither what a port is doing nor its transaction. -/
@[simp] theorem takeEvent_keeps (e : EventRecord) (q : Port) :
    (Port.takeEvent e q).activity = q.activity ∧ (Port.takeEvent e q).transaction = q.transaction ∧
      (Port.takeEvent e q).sent = q.sent := by
  unfold Port.takeEvent; split <;> simp

/-- Posting keeps a queue within its 16 records. -/
theorem takeEvent_bounded (e : EventRecord) (q : Port) (h : q.queue.length ≤ 16) :
    (Port.takeEvent e q).queue.length ≤ 16 := by
  unfold Port.takeEvent Config.queueDepth; split
  · simp; omega
  · exact h

/-! ## The stages of the boundary -/

/-- The offload unit's part of a close leaves every other block, and what the ports are doing. -/
theorem offloadClose_keepsOthers (c : Counter) (s : State) :
    (offloadClose c s).manager = s.manager ∧ (offloadClose c s).loop = s.loop ∧
      (offloadClose c s).stores = s.stores ∧ (offloadClose c s).mirror = s.mirror ∧
      (offloadClose c s).command = s.command ∧ (offloadClose c s).receivers = s.receivers ∧
      (offloadClose c s).slots = s.slots ∧ (offloadClose c s).engine = s.engine ∧
      (∀ p, ((offloadClose c s).ports.get p).activity = (s.ports.get p).activity) := by
  unfold offloadClose; dsimp only; split
  · simp
  · split <;> simp

/-- The hand-over of a close: the command unit, the mirror link and the manager (R86, R144, R20). -/
theorem handResults_spec (w : WorkingSet) (o : OpenInfo) (info : CloseInfo) (s : State) :
    (handResults w o info s).loop = s.loop ∧ (handResults w o info s).stores = s.stores ∧
      (handResults w o info s).command = s.command.commit (closeResult w) ∧
      (handResults w o info s).mirror = handOver (closedVector (closeResult w) w o.cycle) s.mirror ∧
      (handResults w o info s).manager =
        { s.manager with
          lastRecord := some { opened := o, close := info, counts := (closeResult w).counts }
          openRecord := none } := by
  simp [handResults, completeRecord, captureClose, offloadClose_keepsOthers]

theorem takePendingApply_keepsOthers (s : State) :
    (takePendingApply s).manager = s.manager ∧ (takePendingApply s).command = s.command ∧
      (takePendingApply s).loop = s.loop ∧ (takePendingApply s).mirror = s.mirror := by
  unfold takePendingApply; split <;> simp [takeApply]

theorem takePendingLoop_keepsOthers (s : State) :
    (takePendingLoop s).manager = s.manager ∧ (takePendingLoop s).mirror = s.mirror ∧
      (takePendingLoop s).stores = s.stores ∧ (takePendingLoop s).command.d = s.command.d ∧
      (takePendingLoop s).command.actuatorCount = s.command.actuatorCount := by
  unfold takePendingLoop; split
  · simp
  · split <;> simp [takeRequest]

theorem takeHeldSettings_keepsOthers (s : State) :
    (takeHeldSettings s).loop = s.loop ∧ (takeHeldSettings s).ports = s.ports ∧
      (takeHeldSettings s).stores = s.stores ∧ (takeHeldSettings s).command.u = s.command.u ∧
      (takeHeldSettings s).command.d = s.command.d ∧
      (takeHeldSettings s).command.actuatorCount = s.command.actuatorCount ∧
      (takeHeldSettings s).mirror = s.mirror.takeHeld ∧
      (takeHeldSettings s).manager.lastRecord = s.manager.lastRecord := by
  simp [takeHeldSettings]

theorem leaveBoundary_keepsOthers (s : State) :
    (leaveBoundary s).loop = s.loop ∧ (leaveBoundary s).ports = s.ports ∧ (leaveBoundary s).stores = s.stores ∧
      (leaveBoundary s).command.u = s.command.u ∧ (leaveBoundary s).command.d = s.command.d ∧
      (leaveBoundary s).command.actuatorCount = s.command.actuatorCount ∧ (leaveBoundary s).mirror = s.mirror ∧
      (leaveBoundary s).manager.lastRecord = s.manager.lastRecord := by
  unfold leaveBoundary; split <;> simp [stopCycles, flushReceivers]

/-- An opened cycle is in GATHERING or CLOSING. -/
theorem openCycle_state (c : OpenCause) (b : Bool) (s : State) :
    (openCycle c b s).manager.state = .gathering ∨ (openCycle c b s).manager.state = .closing := by
  obtain ⟨o, -, -, -, -, -, -, -, -, -, h5, h6⟩ := openCycle_spec c b s
  by_cases hx : ∃ l, ExpectedNow s l
  · exact Or.inl (h5 hx).1
  · exact Or.inr (h6 (by simpa using hx)).1

/-- The manager that enters ARMED is not IDLE afterwards (R12). -/
theorem enterArmed_state (s : State) : (enterArmed s).manager.state ≠ .idle := by
  have key : ∀ c b (u : State), (openCycle c b u).manager.state ≠ .idle := by
    intro c b u; rcases openCycle_state c b u with h | h <;> rw [h] <;> simp
  unfold enterArmed; dsimp only
  split
  · exact key _ _ _
  · split
    · split
      · exact key _ _ _
      · unfold startFallback; split <;> simp
    · simp

/-- The exchange takes each selected store from the other copy (R166). -/
theorem pick_get (sel : BitVec 9) (x y : Stores) (id : StoreId) :
    (Stores.pick sel x y).get id = if selects sel id then y.get id else x.get id := by
  cases id <;> rfl

end Sys2Proof.Machine
end

