-- ==== Sys2Proof/Laws/Complete.lean ====
section
/-!
SUPPORT. The close with cause COMPLETE: what the slots that have arrived and those that are not expected become, the events
posted, and all that the close leaves.
-/
namespace Sys2Proof.Machine

/-- Posting keeps ports, cycle number and time in agreement. -/
theorem post_ports_congr (x : EventSubject) {u v : State} (h1 : u.ports = v.ports) (h2 : u.manager.cycle = v.manager.cycle)
    (h3 : u.manager.timebase = v.manager.timebase) : (u.post x).ports = (v.post x).ports := by
  simp [State.post, h1, h2, h3]

/-- The close of a slot that has arrived or is not expected changes that slot, and posts SLOT-CHANGE where it restores one
from LOST; it never requests a trip (R53, R54, R60). -/
theorem treatSlot_arrived (x : LoopState) (st : Quad (Option AttachStatus)) (a : LinkId) (u : State)
    (h : st.get a = none ∨ st.get a = some .arrived) :
    treatSlot x st a u =
      if (u.slots.get a).enabled = true ∧ st.get a = some .arrived ∧ (u.slots.get a).muted = false ∧
        (u.slots.get a).state = .lost
      then (u.onSlot a (fun _ => (closeSlot (st.get a) (u.slots.get a)).slot)).post (.slotChange a .active)
      else u.onSlot a (fun _ => (closeSlot (st.get a) (u.slots.get a)).slot) := by
  unfold treatSlot postSlotChange lossTrips
  rcases h with h | h <;> simp only [h, closeSlot, arriveSlot] <;>
    cases (u.slots.get a).enabled <;> cases (u.slots.get a).muted <;> simp
  by_cases hl : (u.slots.get a).state = .lost <;> simp [hl]

/-- A close after every expected slot has arrived leaves the loop state controller (R57). -/
theorem treatSlots_arrived_loop (x : LoopState) (st : Quad (Option AttachStatus))
    (hst : ∀ k, st.get k = none ∨ st.get k = some .arrived) (ls : List LinkId) (u : State) :
    (forLinks (treatSlot x st) ls u).loop = u.loop :=
  forLinks_keeps State.loop _ (fun l s => by rw [treatSlot_arrived _ _ _ _ (hst l)]; split <;> rfl) ls u

/-- A close after every expected slot has arrived posts SLOT-CHANGE for each unmuted slot it restores from LOST, and nothing
else (R54, R60). -/
theorem treatSlots_restored (x : LoopState) (st : Quad (Option AttachStatus)) (s : State)
    (hst : ∀ k, st.get k = none ∨ st.get k = some .arrived) : ∀ (ls : List LinkId) (u v : State), ls.Nodup →
    (∀ k ∈ ls, u.slots.get k = s.slots.get k) → u.ports = v.ports → u.manager.cycle = v.manager.cycle →
    u.manager.timebase = v.manager.timebase →
    (forLinks (treatSlot x st) ls u).ports = (ls.foldl (fun (u : State) l =>
      if (s.slots.get l).enabled = true ∧ st.get l = some .arrived ∧ (s.slots.get l).muted = false ∧
          (s.slots.get l).state = .lost then u.post (.slotChange l .active) else u) v).ports := by
  intro ls
  induction ls with
  | nil => intro u v _ _ h _ _; exact h
  | cons a ls ih =>
    intro u v hnd hs h1 h2 h3
    have hnd' := List.nodup_cons.mp hnd
    have ha := hs a (by simp)
    have key := treatSlot_arrived x st a u (hst a)
    rw [ha] at key
    have hs' : ∀ k ∈ ls, (treatSlot x st a u).slots.get k = s.slots.get k := by
      intro k hk
      have : k ≠ a := by rintro rfl; exact hnd'.1 hk
      rw [treatSlot_slots, Quad.get_set_ne _ _ this, hs k (by simp [hk])]
    by_cases hc : (s.slots.get a).enabled = true ∧ st.get a = some .arrived ∧ (s.slots.get a).muted = false ∧
        (s.slots.get a).state = .lost
    · simp only [forLinks, List.foldl_cons, if_pos hc] at key ⊢
      exact ih _ _ hnd'.2 hs' (by rw [key]; exact post_ports_congr _ h1 h2 h3) (by rw [key]; exact h2) (by rw [key]; exact h3)
    · simp only [forLinks, List.foldl_cons, if_neg hc] at key ⊢
      exact ih _ _ hnd'.2 hs' (by rw [key]; exact h1) (by rw [key]; exact h2) (by rw [key]; exact h3)

/-- The last arrival of the open cycle closes it with cause COMPLETE, whatever the engine has made of the last slot's
contributions (R16, R19). -/
theorem closesComplete_of_lastArrival (s : State) (e : Engine) (rec : OpenRecord) (last : LinkId)
    (ho : s.manager.openRecord = some rec)
    (hothers : ∀ l, l ≠ last → rec.statuses.get l = none ∨ rec.statuses.get l = some .arrived)
    (he : ∀ l, l ≠ last → e.fresh.get l = s.engine.fresh.get l ∧ e.held.get l = s.engine.held.get l) :
    s.closesComplete (closeCycle .complete (setStatus last .arrived (s.onEngine (fun _ => e)))) rec last := by
  set v := setStatus last .arrived (s.onEngine (fun _ => e)) with hv
  set r : OpenRecord := { rec with statuses := rec.statuses.set last (some .arrived) } with hr
  have hvm : v.manager = { s.manager with openRecord := some r } := by
    simp [hv, setStatus, ho, hr]
  have hvo : v.manager.openRecord = some r := by rw [hvm]
  have hvs : v.slots = s.slots := by simp [hv, setStatus]
  have hvr : v.receivers = s.receivers := by simp [hv, setStatus]
  have hve : v.engine = e := by simp [hv, setStatus]
  have hvp : v.ports = s.ports := by simp [hv, setStatus]
  have hvi : v.mirror = s.mirror := by simp [hv, setStatus]
  have hst : ∀ l, r.statuses.get l = if l = last then some .arrived else rec.statuses.get l := by
    intro l; by_cases hl : l = last
    · subst hl; simp [hr]
    · simp [hr, hl, Quad.get_set_ne _ _ hl]
  have harr : ∀ l, r.statuses.get l = some .arrived ↔ l = last ∨ rec.statuses.get l = some .arrived := by
    intro l; rw [hst]; split <;> simp_all
  have hall : ∀ l, r.statuses.get l = none ∨ r.statuses.get l = some .arrived := by
    intro l; rw [hst]; split
    · exact Or.inr rfl
    · exact hothers l ‹_›
  have hm := closeCycle_manager .complete v r hvo
  have hsl := closeCycle_slots .complete v r hvo
  have hE := closeCycle_engine .complete v r hvo
  refine ⟨closeInfo .complete r v, rfl, by simp [closeInfo, hvm], by simp [closeInfo, hvi],
    startsComputation_congr (s' := v) (by simp [hv, setStatus]) (by simp [hv, setStatus]) (by simp [hv, setStatus])
      (closeCycle_startsComputation .complete v r hvo), by rw [hm, hvm], fun l => ⟨?_, ?_, ?_, ?_⟩, ?_, ?_⟩
  · rw [hE.1]; simp [Engine.close]
  · intro hl; rw [hE.1, hve]; simp only [Engine.close, closeInfo, Quad.get_tabulate, (he l hl).1, (he l hl).2]; rfl
  · intro hen hor
    have hs := (harr l).2 hor
    obtain ⟨a1, a2⟩ := closeSlot_arrived (s.slots.get l) hen
    have hsel : (closeSelections r.statuses v.slots).get l = .fresh := by
      simp only [closeSelections, Quad.get_tabulate, hs, hvs, a1]
    refine ⟨by rw [hsl.1, treatSlots_get, hs, hvs, a2], hsel, ?_, ?_⟩
    · simp only [closeInfo, Quad.get_map, treatSlots_get, hs, hvs, a2]
    · simp only [closeInfo, Quad.get_tabulate, hsel, sequenceField, if_true, hvr]
  · intro hor
    have hs : (s.slots.get l).enabled = false ∨ r.statuses.get l = none := by
      rcases hor with h | ⟨h, h'⟩
      · exact Or.inl h
      · right; rw [hst, if_neg h, h']
    obtain ⟨a1, a2⟩ := closeSlot_notExpected _ _ hs
    have hsel : (closeSelections r.statuses v.slots).get l =
        if (s.slots.get l).enabled = true ∧ (s.slots.get l).muted = true then .muted else .notExpected := by
      simp only [closeSelections, Quad.get_tabulate, hvs, a2]
    refine ⟨by rw [hsl.1, treatSlots_get, hvs, a1], ?_, ?_, hsel⟩
    · simp only [closeInfo, Quad.get_map, treatSlots_get, hvs, a1]
    · simp only [closeInfo, Quad.get_tabulate, hsel, sequenceField, hvr]; split <;> simp_all
  · rw [hsl.2.2]
    simp only [← harr]
    exact treatSlots_restored _ _ s hall links (enterClosing v) s (by simp [links]) (fun k _ => by simp [enterClosing, hvs])
      (by simp [enterClosing, hvp]) (by simp [enterClosing, hvm]) (by simp [enterClosing, hvm])
  · have k := closeCycle_keeps .complete v
    have k' : (closeCycle .complete v).loop = v.loop := by
      rw [hsl.2.1]; exact treatSlots_arrived_loop _ _ hall links (enterClosing v)
    obtain ⟨k1, k2, k3, k4, k5, k6, -, -, -⟩ := k
    have k7 : (closeCycle .complete v).receivers = s.receivers := by rw [hE.2.1, hvr]
    have k8 := hE.2.2.1
    generalize closeCycle .complete v = t at k1 k2 k3 k4 k5 k6 k' k7 k8 ⊢
    have w : v.pending = s.pending ∧ v.resetActs = s.resetActs ∧ v.stores = s.stores ∧ v.capture = s.capture ∧
        v.offload = s.offload ∧ v.loop = s.loop ∧ v.line = s.line := by simp [hv, setStatus]
    obtain ⟨w1, w2, w3, w4, w5, w6, w7⟩ := w
    rw [w1] at k1; rw [w2] at k2; rw [w3] at k3; rw [hvi] at k4; rw [w4] at k5; rw [w5] at k6; rw [w6] at k'; rw [w7] at k8
    rw [k1, k2, k3, k4, k5, k6, k', k7, k8]

end Sys2Proof.Machine
end

