-- ==== Sys2Proof/Laws/Events.lean ====
section
/-!
SUPPORT. Laws of events posted: two states whose queues, lost counts and stamps agree stay in agreement under the same
events; what START and the entry of ARMED post.
-/
namespace Sys2Proof.Machine

/-- The queues and the lost counts of two states agree, and so does the stamp of an event posted in them (R180). -/
def SameEvents (s t : State) : Prop :=
  (∀ q, (t.ports.get q).queue = (s.ports.get q).queue ∧ (t.ports.get q).lost = (s.ports.get q).lost) ∧
    t.manager.cycle = s.manager.cycle ∧ t.manager.timebase = s.manager.timebase

theorem SameEvents.refl (s : State) : SameEvents s s := ⟨fun _ => ⟨rfl, rfl⟩, rfl, rfl⟩

theorem SameEvents.trans {s t u : State} (h : SameEvents s t) (k : SameEvents t u) : SameEvents s u :=
  ⟨fun q => ⟨(k.1 q).1.trans (h.1 q).1, (k.1 q).2.trans (h.1 q).2⟩, k.2.1.trans h.2.1, k.2.2.trans h.2.2⟩

/-- Equal ports and stamps agree. -/
theorem SameEvents.of {s t : State} (h1 : t.ports = s.ports) (h2 : t.manager.cycle = s.manager.cycle)
    (h3 : t.manager.timebase = s.manager.timebase) : SameEvents s t :=
  ⟨fun q => by rw [h1]; constructor <;> rfl, h2, h3⟩

/-- Posting the same event keeps the agreement. -/
theorem SameEvents.post {s t : State} (x : EventSubject) (h : SameEvents s t) : SameEvents (s.post x) (t.post x) := by
  obtain ⟨h1, h2, h3⟩ := h
  refine ⟨fun q => ?_, h2, h3⟩
  simp only [State.post, Pair.get_map, h2, h3, Port.takeEvent, (h1 q).1, (h1 q).2]
  split <;> simp [(h1 q).1, (h1 q).2]

/-- Posting the same events in the same order keeps the agreement. -/
theorem SameEvents.posts {s t : State} (xs : List EventSubject) (h : SameEvents s t) :
    SameEvents (xs.foldl (fun u x => u.post x) s) (xs.foldl (fun u x => u.post x) t) := by
  induction xs generalizing s t with
  | nil => exact h
  | cons x xs ih => exact ih (h.post x)

/-- A result is no event. -/
theorem SameEvents.answer {s : State} (p : PortId) (r : ResultRecord) : SameEvents s (s.answer p r) := by
  refine ⟨fun q => ?_, rfl, rfl⟩
  by_cases hq : q = p
  · subst hq; simp [State.answer]
  · simp only [State.answer, State.onPort, Pair.get_set_ne _ _ hq]; simp

/-- The entry of ARMED changes no port: a cycle that it opens posts nothing (R12, R13). -/
theorem enterArmed_ports (s : State) : (enterArmed s).ports = s.ports := by
  unfold enterArmed; split
  · obtain ⟨o, -, -, -, -, -, -, h, -⟩ := openCycle_spec _ true
      ((s.onManager (fun m => { m with state := .armed, latch := none })).onManagerCounters
        (fun c => { c with lateStarts := Counter.increase c.lateStarts }))
    exact h
  · dsimp only; split
    · split
      · obtain ⟨o, -, -, -, -, -, -, h, -⟩ := openCycle_spec .lead false (s.onManager (fun m => { m with state := .armed }))
        exact h
      · unfold startFallback; split <;> rfl
    · rfl

/-- START posts SLOT-CHANGE for each slot whose state changes, in ascending order (R61). -/
theorem startSlots_events (s : State) : ∀ (ls : List LinkId) (u v : State), ls.Nodup →
    (∀ k ∈ ls, u.slots.get k = s.slots.get k) → SameEvents v u →
    SameEvents (ls.foldl (fun u l => if (s.slots.get l).state = (s.slots.get l).startState then u
      else u.post (.slotChange l (s.slots.get l).startState)) v) (forLinks startSlot ls u) := by
  intro ls
  induction ls with
  | nil => intro u v _ _ h; exact h
  | cons a ls ih =>
    intro u v hnd hs h
    have hnd' := List.nodup_cons.mp hnd
    have sl : (startSlot a u).slots = u.slots.set a { u.slots.get a with
        age := 0, cadence := (u.slots.get a).policy.phase, state := (u.slots.get a).startState } := by
      unfold startSlot; dsimp only; split <;> simp [quadModify]
    have hs' : ∀ k ∈ ls, (startSlot a u).slots.get k = s.slots.get k := by
      intro k hk
      have : k ≠ a := by rintro rfl; exact hnd'.1 hk
      rw [sl, Quad.get_set_ne _ _ this, hs k (by simp [hk])]
    refine ih (startSlot a u) _ hnd'.2 hs' ?_
    unfold startSlot; dsimp only
    rw [hs a (by simp)]
    by_cases hc : (s.slots.get a).state = (s.slots.get a).startState
    · rw [if_pos hc, if_pos hc.symm]; exact h.trans (SameEvents.of rfl rfl rfl)
    · rw [if_neg hc, if_neg (fun k => hc k.symm)]; exact (h.trans (SameEvents.of rfl rfl rfl)).post _

end Sys2Proof.Machine
end

