-- ==== Sys2Proof/Laws/Geometry.lean ====
section
/-!
SUPPORT. SET GEOMETRY: the slope bases, the values accepted, what each slot becomes, the events posted and the result data.
-/
namespace Sys2Proof.Machine

/-- The slope base of a slot is the sum of the slope counts of the enabled slots numbered below it (R49). -/
theorem slopeBase_eq_sum (slots : Quad Slot) (l : LinkId) : slopeBase slots l =
    ((List.range l.val).map (fun n => if (slots.get (Fin.ofNat 4 n)).enabled then (slots.get (Fin.ofNat 4 n)).slopeCount
      else 0)).sum := by
  match l with
  | 0 => rfl
  | 1 => rfl
  | 2 => rfl
  | 3 => rfl

/-- A slot's values in their ranges are accepted as they are (R48). -/
theorem checkSlotGeometry_accepts (x : SlotGeometryParams) (h : x.enabled.toNat ≤ 1 ∧ 32 ≤ x.slopeCount.toNat ∧
    x.slopeCount.toNat ≤ 1024 ∧ x.slopeCount.toNat % 32 = 0) :
    checkSlotGeometry x = some (x.enabled == 1, x.tag, x.slopeCount.toNat) := by
  have hE : x.enabled.toNat ≤ 1 → readFlag x.enabled = some (x.enabled == 1) := by
    generalize x.enabled = b; revert b; decide
  obtain ⟨h1, h2, h3, h4⟩ := h
  unfold checkSlotGeometry
  rw [hE h1]; simp [inRange, h2, h3, h4]

/-- A geometry in its ranges, with at most 2,048 enabled slopes, is accepted as it is (R48). -/
theorem checkGeometry_accepts (x : GeometryParams) (h1 : 128 ≤ x.actuatorCount.toNat) (h2 : x.actuatorCount.toNat ≤ 1024)
    (h3 : x.actuatorCount.toNat % 128 = 0)
    (h4 : ∀ l, (x.slots.get l).enabled.toNat ≤ 1 ∧ 32 ≤ (x.slots.get l).slopeCount.toNat ∧
      (x.slots.get l).slopeCount.toNat ≤ 1024 ∧ (x.slots.get l).slopeCount.toNat % 32 = 0)
    (h5 : ((links.filter (fun l => (x.slots.get l).enabled == 1)).map (fun l => (x.slots.get l).slopeCount.toNat)).sum ≤ 2048) :
    checkGeometry x = some (x.actuatorCount.toNat,
      x.slots.map (fun y => (y.enabled == 1, y.tag, y.slopeCount.toNat))) := by
  have e0 := checkSlotGeometry_accepts _ (h4 0)
  have e1 := checkSlotGeometry_accepts _ (h4 1)
  have e2 := checkSlotGeometry_accepts _ (h4 2)
  have e3 := checkSlotGeometry_accepts _ (h4 3)
  simp only [Quad.get] at e0 e1 e2 e3
  have hsum : geometrySlopes (x.slots.q0.enabled == 1, x.slots.q0.tag, x.slots.q0.slopeCount.toNat) +
      geometrySlopes (x.slots.q1.enabled == 1, x.slots.q1.tag, x.slots.q1.slopeCount.toNat) +
      geometrySlopes (x.slots.q2.enabled == 1, x.slots.q2.tag, x.slots.q2.slopeCount.toNat) +
      geometrySlopes (x.slots.q3.enabled == 1, x.slots.q3.tag, x.slots.q3.slopeCount.toNat) ≤ 2048 := by
    revert h5
    simp only [links, List.filter_cons, Quad.get, geometrySlopes, List.filter_nil]
    cases x.slots.q0.enabled == 1 <;> cases x.slots.q1.enabled == 1 <;> cases x.slots.q2.enabled == 1 <;>
      cases x.slots.q3.enabled == 1 <;> simp <;> omega
  unfold checkGeometry
  rw [e0, e1, e2, e3]
  unfold inRange; dsimp only
  rw [if_pos (by rw [decide_eq_true h1, decide_eq_true h2, decide_eq_true h3, decide_eq_true hsum]; rfl)]
  rfl

/-- What the values accepted make of one slot (R48). -/
theorem withGeometry_cases (g : Bool × Byte × Nat) (x y : Slot)
    (hy : y = { x with enabled := g.1, tag := g.2.1, slopeCount := g.2.2 }) :
    (g.1 = x.enabled → x.withGeometry g = y) ∧
      (g.1 = true → x.enabled = false →
        x.withGeometry g = { y with state := .active, age := 0, muted := false, cadence := y.policy.phase }) ∧
      (g.1 = false → x.enabled = true → x.withGeometry g = { y with state := .disabled, age := 0, muted := false }) := by
  subst hy; unfold Slot.withGeometry; dsimp only
  refine ⟨fun h => by rw [if_pos h], fun h1 h2 => ?_, fun h1 h2 => ?_⟩
  · rw [if_neg (by rw [h1, h2]; decide), if_pos h1]
  · rw [if_neg (by rw [h1, h2]; decide), if_neg (by rw [h1]; decide)]

/-- SLOT-CHANGE is posted for each slot whose enabled field changes, ACTIVE or DISABLED, in ascending order (R48, R60). -/
theorem takeGeometry_ports (count : Nat) (g : Quad (Bool × Byte × Nat)) (s : State) :
    (takeGeometry count g s).ports = ([(0 : LinkId), 1, 2, 3].foldl (fun (u : State) l =>
      if (g.get l).1 = (s.slots.get l).enabled then u
      else u.post (.slotChange l (if (g.get l).1 then .active else .disabled))) s).ports := by
  have key : ∀ (ls : List LinkId) (u v : State), u.slots = withGeometry g s.slots → u.ports = v.ports →
      u.manager.cycle = v.manager.cycle → u.manager.timebase = v.manager.timebase →
      (forLinks (postEnableChange s.slots) ls u).ports = (ls.foldl (fun (u : State) l =>
        if (g.get l).1 = (s.slots.get l).enabled then u
        else u.post (.slotChange l (if (g.get l).1 then .active else .disabled))) v).ports := by
    intro ls
    induction ls with
    | nil => intro u v _ h _ _; exact h
    | cons a ls ih =>
      intro u v h0 h1 h2 h3
      obtain ⟨c1, c2, c3⟩ := withGeometry_cases (g.get a) (s.slots.get a) _ rfl
      have hpost : postEnableChange s.slots a u = if (g.get a).1 = (s.slots.get a).enabled then u
          else u.post (.slotChange a (if (g.get a).1 then .active else .disabled)) := by
        unfold postEnableChange; rw [h0]; simp only [withGeometry, Quad.get_tabulate]
        by_cases hc : (g.get a).1 = (s.slots.get a).enabled
        · rw [if_pos hc, if_pos (by rw [c1 hc]; exact hc.symm)]
        · rw [if_neg hc]
          cases hg : (g.get a).1 <;> cases hx : (s.slots.get a).enabled
          · exact absurd (hg.trans hx.symm) hc
          · rw [c3 hg hx]; simp [hg]
          · rw [c2 hg hx]; simp [hg]
          · exact absurd (hg.trans hx.symm) hc
      by_cases hc : (g.get a).1 = (s.slots.get a).enabled
      · simp only [forLinks, List.foldl_cons, if_pos hc] at hpost ⊢
        rw [hpost]; exact ih _ _ h0 h1 h2 h3
      · simp only [forLinks, List.foldl_cons, if_neg hc] at hpost ⊢
        rw [hpost]; exact ih _ _ h0 (post_ports_congr _ h1 h2 h3) h2 h3
  exact key links _ s rfl rfl rfl rfl

/-- An accepted geometry changes the slots, the actuator count and the ports alone (R48). -/
theorem takeGeometry_spec (count : Nat) (g : Quad (Bool × Byte × Nat)) (s : State) :
    takeGeometry count g s = { s with
      slots := withGeometry g s.slots
      command := { s.command with actuatorCount := count }
      ports := (takeGeometry count g s).ports } := by
  have key : ∀ (ls : List LinkId) (u : State),
      forLinks (postEnableChange s.slots) ls u = { u with ports := (forLinks (postEnableChange s.slots) ls u).ports } := by
    intro ls
    induction ls with
    | nil => intro u; rfl
    | cons a ls ih =>
      intro u
      have h := ih (postEnableChange s.slots a u)
      show forLinks _ ls (postEnableChange s.slots a u) = { u with ports := (forLinks _ ls (postEnableChange s.slots a u)).ports }
      generalize (forLinks (postEnableChange s.slots) ls (postEnableChange s.slots a u)).ports = P at h ⊢
      rw [h]; unfold postEnableChange; split <;> rfl
  unfold takeGeometry; rw [key]

/-- The result data of an accepted SET GEOMETRY are the values accepted, and then 00h for in force (R177, R202, log 14). -/
theorem geometryData_eq (x : GeometryParams) (s : State) (h : ∀ l, (x.slots.get l).enabled.toNat ≤ 1) :
    geometryData x.actuatorCount.toNat
        (withGeometry (x.slots.map (fun y => (y.enabled == 1, y.tag, y.slopeCount.toNat))) s.slots) =
      bytes16 x.actuatorCount ++ ([(0 : LinkId), 1, 2, 3].map (fun l =>
        [(x.slots.get l).enabled, (x.slots.get l).tag] ++ bytes16 (x.slots.get l).slopeCount)).flatten ++ [0] := by
  have flag : ∀ b : Byte, b.toNat ≤ 1 → flagByte (b == 1) = b := by decide
  have gb : ∀ l, ((withGeometry (x.slots.map (fun y => (y.enabled == 1, y.tag, y.slopeCount.toNat))) s.slots).get
      l).geometryBytes = [(x.slots.get l).enabled, (x.slots.get l).tag] ++ bytes16 (x.slots.get l).slopeCount := by
    intro l
    have fields : ∀ (g : Bool × Byte × Nat) (y : Slot), (y.withGeometry g).enabled = g.1 ∧
        (y.withGeometry g).tag = g.2.1 ∧ (y.withGeometry g).slopeCount = g.2.2 := by
      intro g y; unfold Slot.withGeometry; dsimp only; split
      · exact ⟨rfl, rfl, rfl⟩
      · split <;> exact ⟨rfl, rfl, rfl⟩
    simp only [withGeometry, Quad.get_tabulate, Quad.get_map]
    obtain ⟨a, b, c⟩ := fields ((x.slots.get l).enabled == 1, (x.slots.get l).tag, (x.slots.get l).slopeCount.toNat) (s.slots.get l)
    unfold Slot.geometryBytes count16; rw [a, b, c, flag _ (h l)]; simp
  show count16 _ ++ ([(0 : LinkId), 1, 2, 3].map (fun l => ((withGeometry _ s.slots).get l).geometryBytes)).flatten ++ [0] = _
  simp only [gb, count16]; simp

end Sys2Proof.Machine
end

