-- ==== Sys2Proof/Laws/Header.lean ====
section
/-!
SUPPORT. The words of the telemetry header: what the record's word list is, word by word.
-/
namespace Sys2Proof.Machine

/-- The bits of the last header word: the ack mask and the skipped flag (13.6). -/
theorem ackMask_bits : ∀ (k : Fin 2) (a0 a1 a2 a3 a4 a5 a6 a7 : Bool) (w : Word),
    w = BitVec.setWidth 16 (flagBit 0 a0 ||| flagBit 1 a1 ||| flagBit 2 a2 ||| flagBit 3 a3 ||| flagBit 4 a4 |||
        flagBit 5 a5 ||| flagBit 6 a6 ||| flagBit 7 a7) ||| (if k = 1 then 0x0100 else 0) →
    w.getLsbD 0 = a0 ∧ w.getLsbD 1 = a1 ∧ w.getLsbD 2 = a2 ∧ w.getLsbD 3 = a3 ∧ w.getLsbD 4 = a4 ∧ w.getLsbD 5 = a5 ∧
      w.getLsbD 6 = a6 ∧ w.getLsbD 7 = a7 ∧ w.getLsbD 8 = decide (k = 1) ∧ w.extractLsb' 9 7 = 0 := by
  rintro k a0 a1 a2 a3 a4 a5 a6 a7 w rfl
  revert k a0 a1 a2 a3 a4 a5 a6 a7
  decide +kernel

/-- Words 22 and 23: the report of the latest writeout (13.6). -/
theorem previousWords_laidOut (x : Option WriteoutReport) : ∃ w22 w23 : Word, (match x with
      | none => w22 = 0 ∧ w23 = 0x8000
      | some x => w22 = x.cycle.extractLsb' 0 16 ∧
          (∀ b : BoardId, w23.getLsbD b.val = decide (x.outcomes.get b = .acked)) ∧ w23.getLsbD 8 = x.skipped ∧
          w23.extractLsb' 9 7 = 0) ∧ previousWords x = [w22, w23] := by
  cases x with
  | none => exact ⟨_, _, ⟨rfl, rfl⟩, rfl⟩
  | some x =>
    obtain ⟨cyc, ⟨o0, o1, o2, o3, o4, o5, o6, o7⟩, sk⟩ := x
    refine ⟨_, _, ?_, rfl⟩
    have h := ackMask_bits (if sk then 1 else 0) (o0 == .acked) (o1 == .acked) (o2 == .acked) (o3 == .acked)
      (o4 == .acked) (o5 == .acked) (o6 == .acked) (o7 == .acked) _ rfl
    have e : (if (if sk = true then (1 : Fin 2) else 0) = 1 then (0x0100 : Word) else 0) =
        if sk then 0x0100 else 0 := by
      cases sk <;> rfl
    rw [e] at h
    obtain ⟨h0, h1, h2, h3, h4, h5, h6, h7, h8, h9⟩ := h
    refine ⟨rfl, ?_, ?_, h9⟩
    · intro b
      have q : ∀ y : BoardOutcome, decide (y = .acked) = (y == .acked) := by intro y; cases y <;> rfl
      match b with
      | 0 => exact h0.trans (q _).symm
      | 1 => exact h1.trans (q _).symm
      | 2 => exact h2.trans (q _).symm
      | 3 => exact h3.trans (q _).symm
      | 4 => exact h4.trans (q _).symm
      | 5 => exact h5.trans (q _).symm
      | 6 => exact h6.trans (q _).symm
      | 7 => exact h7.trans (q _).symm
    · refine h8.trans ?_; cases sk <;> rfl

/-- Word 9: the fields side by side, which do not overlap (13.6). -/
theorem CycleRecord.stateWord_laidOut (r : CycleRecord) (hp : ∀ p, r.close.probePosition = some p → p < 8) :
    r.stateWord =
  BitVec.ofNat 16
          (16384 * (match r.opened.cause with
              | .lead => 0
              | .line => 1
              | .timer => 2
              | .fallback => 3) +
            8192 * (if r.opened.lateStart then 1 else 0) +
            4096 * (match r.close.cause with
              | .complete => 0
              | .deadline => 1) +
            1024 * (match r.opened.loop with
              | .idle => 0
              | .opened => 1
              | .closed => 2
              | .frozen => 3) +
            (match r.close.probePosition with
              | none => 15
              | some p => p)) := by
  unfold CycleRecord.stateWord
  generalize r.close.probePosition = pp at *
  generalize r.opened.cause = a
  generalize r.opened.lateStart = b
  generalize r.close.cause = c
  generalize r.opened.loop = d
  cases pp with
  | none => cases a <;> cases b <;> cases c <;> cases d <;> rfl
  | some p =>
    have := hp p rfl
    interval_cases p <;> cases a <;> cases b <;> cases c <;> cases d <;> rfl

/-- Words 11 to 14: selection above age (13.6). -/
theorem slotWord_laidOut (s : Selection) (n : Nat) (h : n ≤ 16) : slotWord s n = BitVec.ofNat 16
        (256 * (match s with
            | .fresh => 0
            | .held => 1
            | .zeroed => 2
            | .notExpected => 3
            | .muted => 4) +
          n) := by
  interval_cases n <;> cases s <;> rfl

/-- The header of a record whose probe position and ages are in range (13.6). -/
theorem CycleRecord.words_laidOut (r : CycleRecord) (hp : ∀ p, r.close.probePosition = some p → p < 8)
    (ha : ∀ l, r.close.ages.get l ≤ 16) :
    r.laidOut r.words := by
  obtain ⟨w22, w23, h, e⟩ := previousWords_laidOut r.close.previous
  refine ⟨w22, w23, h, ?_⟩
  unfold CycleRecord.words; rw [e, r.stateWord_laidOut hp]
  simp only [links, List.map, slotWord_laidOut _ _ (ha _)]; rfl

end Sys2Proof.Machine
end

