-- ==== Sys2Proof/Laws/Losses.lean ====
section
/-!
SUPPORT. The trips of a close: what a trip request changes while the cycle closes, which slots request one at a deadline
close, and what all the slots together leave of the loop state controller and of the pending request's port.
-/
namespace Sys2Proof.Machine

/-- Posting an event keeps what a port does. -/
theorem post_activity (x : EventSubject) (u : State) (p : PortId) :
    ((u.post x).ports.get p).activity = (u.ports.get p).activity := by
  simp only [State.post, Pair.get_map, Port.takeEvent]; split <;> rfl

/-- A trip request while the cycle closes: a further cause of the pending trip, up to 255, or the pending trip itself, which
withdraws the pending request (R124). -/
theorem requestTrip_loop (c : TripCause) (u : State) (h : u.manager.state = .closing) :
    (requestTrip c u).loop =
      (match u.loop.trip with
        | some t => { u.loop with
            trip := some { t with additional := if t.additional < 255 then t.additional + 1 else t.additional } }
        | none => { u.loop with trip := some { cause := c, additional := 0 }, request := none }) := by
  unfold requestTrip; rw [h]; dsimp only; unfold requestTrip.holdTrip
  cases ht : u.loop.trip with
  | some t => simp [Config.maxByteCount]; rfl
  | none =>
    dsimp only; unfold withdrawRequest; cases hr : u.loop.request <;> simp [ht, hr]

/-- The port of the pending request gets the result WITHDRAWN with reason TRIPPED when the trip becomes pending; every other
port, and every port at a further cause, goes on (R124). -/
theorem requestTrip_activity (c : TripCause) (u : State) (h : u.manager.state = .closing) (p : PortId) :
    ((requestTrip c u).ports.get p).activity =
      (match u.loop.trip, u.loop.request with
        | none, some r => if r.port = p then
              .result { code := 0x30, cls := .withdrawn, reason := .tripped, data := [u.loop.loop.code] } 0
            else (u.ports.get p).activity
        | _, _ => (u.ports.get p).activity) := by
  unfold requestTrip; rw [h]; dsimp only; unfold requestTrip.holdTrip
  cases ht : u.loop.trip with
  | some t => simp
  | none =>
    dsimp only; unfold withdrawRequest
    cases hr : u.loop.request with
    | none => simp
    | some r =>
      simp [State.withdraw, State.answer]
      by_cases hq : r.port = p
      · subst hq; simp; rfl
      · rw [Pair.get_set_ne _ _ (Ne.symm hq)]; simp [hq]

/-- The close of one slot changes the loop state controller by its trip request alone (R53, R57). -/
theorem treatSlot_loop (x : LoopState) (st : Quad (Option AttachStatus)) (l : LinkId) (u : State)
    (h : u.manager.state = .closing) :
    (treatSlot x st l u).loop = (if lossTrips x (closeSlot (st.get l) (u.slots.get l)) then (requestTrip (.slot l) u).loop
      else u.loop) ∧ (treatSlot x st l u).manager.state = .closing := by
  unfold treatSlot postSlotChange; dsimp only
  have same : ∀ v : State, v.loop = u.loop → v.manager = u.manager →
      (requestTrip (.slot l) v).loop = (requestTrip (.slot l) u).loop := by
    intro v h1 h2; rw [requestTrip_loop _ _ (by rw [h2, h]), requestTrip_loop _ _ h, h1]
  have hm : ∀ v : State, v.manager.state = .closing → (requestTrip (.slot l) v).manager.state = .closing := by
    intro v hv; unfold requestTrip; rw [hv]; dsimp only; unfold requestTrip.holdTrip; split <;> simp [hv]
  split <;> split <;> refine ⟨?_, ?_⟩ <;> first | exact same _ rfl rfl | exact hm _ h | rfl | exact h

/-- The close of one slot changes what a port does by its trip request alone (R53, R57). -/
theorem treatSlot_activity (x : LoopState) (st : Quad (Option AttachStatus)) (l : LinkId) (u : State)
    (h : u.manager.state = .closing) (p : PortId) :
    ((treatSlot x st l u).ports.get p).activity =
      if lossTrips x (closeSlot (st.get l) (u.slots.get l)) then ((requestTrip (.slot l) u).ports.get p).activity
      else (u.ports.get p).activity := by
  unfold treatSlot postSlotChange; dsimp only
  have same : ∀ v : State, v.loop = u.loop → v.manager = u.manager →
      (∀ p, (v.ports.get p).activity = (u.ports.get p).activity) →
      ((requestTrip (.slot l) v).ports.get p).activity = ((requestTrip (.slot l) u).ports.get p).activity := by
    intro v h1 h2 h3
    rw [requestTrip_activity _ _ (by rw [h2, h]), requestTrip_activity _ _ h, h1, h3]
  split <;> split
  · exact same _ rfl rfl (fun _ => rfl)
  · exact same _ rfl rfl (fun p => post_activity _ _ p)
  · rfl
  · exact post_activity _ _ p

/-- The slots together (R57, R124), where `T` says which of them request a trip: none changes nothing; with a trip pending
each is a further cause, up to 255; else the first is the cause and the others are further ones, and the pending request is
withdrawn. -/
theorem treatSlots_trips (x : LoopState) (st : Quad (Option AttachStatus)) (s : State) (T : LinkId → Bool)
    (hT : ∀ k, T k = lossTrips x (closeSlot (st.get k) (s.slots.get k))) :
    ∀ (ls : List LinkId) (u : State), ls.Nodup → u.manager.state = .closing →
      (∀ k ∈ ls, u.slots.get k = s.slots.get k) →
      (ls.filter T = [] → (forLinks (treatSlot x st) ls u).loop = u.loop ∧
        ∀ p, ((forLinks (treatSlot x st) ls u).ports.get p).activity = (u.ports.get p).activity) ∧
      (∀ d, u.loop.trip = some d → d.additional ≤ 255 →
        (forLinks (treatSlot x st) ls u).loop =
          { u.loop with trip := some { d with additional := min (d.additional + (ls.filter T).length) 255 } } ∧
        ∀ p, ((forLinks (treatSlot x st) ls u).ports.get p).activity = (u.ports.get p).activity) ∧
      (∀ k rest, ls.filter T = k :: rest → u.loop.trip = none → rest.length ≤ 255 →
        (forLinks (treatSlot x st) ls u).loop =
          { u.loop with request := none, trip := some { cause := .slot k, additional := rest.length } } ∧
        ∀ r, u.loop.request = some r → ((forLinks (treatSlot x st) ls u).ports.get r.port).activity =
          .result { code := 0x30, cls := .withdrawn, reason := .tripped, data := [u.loop.loop.code] } 0) := by
  intro ls
  induction ls with
  | nil =>
    intro u _ _ _
    refine ⟨fun _ => ⟨rfl, fun _ => rfl⟩, fun d hd hle => ⟨?_, fun _ => rfl⟩, fun k rest h => by simp at h⟩
    simp [forLinks, Nat.min_eq_left hle]; rw [← hd]
  | cons a ls ih =>
    intro u hnd hu hs
    have hnd' := List.nodup_cons.mp hnd
    obtain ⟨tl, tm⟩ := treatSlot_loop x st a u hu
    have ta := treatSlot_activity x st a u hu
    have hTa : lossTrips x (closeSlot (st.get a) (u.slots.get a)) = T a := by rw [hT, hs a (by simp)]
    rw [hTa] at tl
    simp only [hTa] at ta
    have hs' : ∀ k ∈ ls, (treatSlot x st a u).slots.get k = s.slots.get k := by
      intro k hk
      have : k ≠ a := by rintro rfl; exact hnd'.1 hk
      rw [treatSlot_slots, Quad.get_set_ne _ _ this, hs k (by simp [hk])]
    obtain ⟨i1, i2, i3⟩ := ih (treatSlot x st a u) hnd'.2 tm hs'
    have ef : forLinks (treatSlot x st) (a :: ls) u = forLinks (treatSlot x st) ls (treatSlot x st a u) := rfl
    rw [ef]
    cases hta : T a with
    | false =>
      simp only [hta, Bool.false_eq_true, if_false] at tl ta
      simp only [List.filter_cons, hta, Bool.false_eq_true, if_false]
      simp only [tl, ta] at i1 i2 i3
      exact ⟨i1, i2, i3⟩
    | true =>
      simp only [hta, if_true] at tl ta
      simp only [List.filter_cons, hta, if_true]
      refine ⟨by simp, ?_, ?_⟩
      · intro d hd hle
        rw [requestTrip_loop _ _ hu, hd] at tl; dsimp only at tl
        have ta' : ∀ p, ((treatSlot x st a u).ports.get p).activity = (u.ports.get p).activity := by
          intro p; rw [ta, requestTrip_activity _ _ hu, hd]
        have further := i2 { d with additional := if d.additional < 255 then d.additional + 1 else d.additional }
          (by rw [tl]) (by dsimp only; split <;> omega)
        refine ⟨?_, fun p => by rw [further.2, ta']⟩
        rw [further.1, tl]; congr 3; simp; split <;> omega
      · intro k rest hk hnone hle
        simp only [List.cons.injEq] at hk; obtain ⟨rfl, rfl⟩ := hk
        rw [requestTrip_loop _ _ hu, hnone] at tl; dsimp only at tl
        obtain ⟨j1, j2⟩ := i2 { cause := .slot a, additional := 0 } (by rw [tl]) (by simp)
        refine ⟨?_, ?_⟩
        · rw [j1, tl]; simp [Nat.min_eq_left hle]
        · intro r hr
          rw [j2, ta, requestTrip_activity _ _ hu, hnone, hr]; simp

/-- Which slot requests a trip at the deadline close of a CLOSED cycle: an enabled, unmuted one that missed, enters LOST and
has loss action TRIP (R57). -/
theorem lossTrips_deadline (st : Option AttachStatus) (x : Slot) :
    lossTrips .closed (closeSlot (statusAfterDeadline st) x) =
      decide (x.enabled = true ∧ x.muted = false ∧ x.state ≠ .lost ∧ st ≠ none ∧ st ≠ some .arrived ∧
        x.policy.holdLimit < min (x.age + 1) 16 ∧ x.policy.lossAction = .trip) := by
  have old : ∀ n, olderAge n = min (n + 1) 16 := by intro n; unfold olderAge Config.maxAge; split <;> omega
  obtain ⟨en, tag, sc, pol, hp, sst, age, mu, cad⟩ := x
  have missed : ∀ y : Slot, st ≠ none → st ≠ some .arrived → closeSlot (statusAfterDeadline st) y =
      if y.enabled then missSlot y else { selection := .notExpected, slot := y, change := none, lost := false } := by
    intro y h1 h2
    cases st with
    | none => exact absurd rfl h1
    | some z => cases z <;> first | exact absurd rfl h2 | rfl
  by_cases h1 : st = none
  · subst h1; cases en <;> cases mu <;> simp [statusAfterDeadline, closeSlot, lossTrips]
  by_cases h2 : st = some .arrived
  · subst h2; cases en <;> cases mu <;> simp [statusAfterDeadline, closeSlot, lossTrips, arriveSlot]
  rw [missed _ h1 h2]
  cases en
  · simp [lossTrips]
  · cases mu
    · by_cases hl : sst = .lost
      · subst hl; simp [missSlot, lossTrips]
      · by_cases hlim : min (age + 1) 16 ≤ pol.holdLimit
        · have h3 : ¬ pol.holdLimit < min (age + 1) 16 := by omega
          simp only [missSlot, lossTrips, hl, old, hlim, h1, h2, h3]; simp
        · have h3 : pol.holdLimit < min (age + 1) 16 := by omega
          simp only [missSlot, lossTrips, hl, old, hlim, h1, h2, h3]; simp [hl, h1, h2]
          cases pol.lossAction <;> rfl
    · simp [missSlot, lossTrips]

end Sys2Proof.Machine
end

