-- ==== Sys2Proof/Laws/Opening.lean ====
section
/-!
SUPPORT. What a cycle open gives each slot: its attach status, its receiver and its attachment record, and, where no slot
is expected, the close computation that starts at once.
-/
namespace Sys2Proof.Machine

/-- The slots of a new cycle (R13, R15, R51, R52, R67): the close of a cycle that expects none, no status for a slot that is
not expected, WAITING without a frame, and ATTACHED with the frame first in the FIFO. -/
theorem openCycle_statuses (cause : OpenCause) (late : Bool) (s : State) (o : OpenRecord)
    (h : (openCycle cause late s).manager.openRecord = some o) :
    ((¬ ∃ l, s.expects l) → ∃ info, o.closing = some info ∧ info.cause = .complete ∧
      info.time = s.manager.timebase ∧ s.startsComputation (openCycle cause late s) s.loop.loop info ∧
      ∀ l, info.ages.get l = (s.slots.get l).age ∧ info.sequences.get l = (s.receivers.get l).receivedSeq ∧
        info.selections.get l =
          (if (s.slots.get l).enabled = true ∧ (s.slots.get l).muted = true then .muted else .notExpected)) ∧
    (∀ l, ¬ s.expects l → o.statuses.get l = none) ∧
      (∀ l, s.expects l → (s.receivers.get l).fifo = [] →
        o.statuses.get l = some .waiting ∧ (openCycle cause late s).receivers.get l = s.receivers.get l) ∧
      (∀ l e rest, s.expects l → (s.receivers.get l).fifo = e :: rest → e.attached = false →
        o.statuses.get l = some (.attached e.verified false) ∧
          ((openCycle cause late s).receivers.get l).attachedSeq = e.sequence ∧
          (openCycle cause late s).engine.records.get l =
            some { sequence := e.sequence, groups := (s.slots.get l).slopeCount / 32, done := 0,
                   state := .accumulating } ∧
          (e.groups = [] → ((openCycle cause late s).receivers.get l).fifo = { e with attached := true } :: rest) ∧
          ∀ a, ((openCycle cause late s).engine.fresh.get l).at a = 0) := by
  by_cases hA : allArrived (newRecord cause late s) = true
  · have hno := (allArrived_newRecord cause late s).1 hA
    let s1 : State :=
      { s with
        manager := { s.manager with
          state := .gathering, cycle := nextCycle s.manager.cycle, openRecord := some (newRecord cause late s),
          fallback := none }
        slots := s.slots.map Slot.advance
        engine := { s.engine with residuals := [] } }
    have e : openCycle cause late s = closeCycle .complete s1 := by unfold openCycle; dsimp only; rw [if_pos hA]; rfl
    have ho : s1.manager.openRecord = some (newRecord cause late s) := rfl
    have hm := closeCycle_manager .complete s1 _ ho
    have hw := closeCycle_startsComputation .complete s1 _ ho
    rw [e, hm] at h
    simp at h
    subst h
    refine ⟨fun _ => ⟨_, rfl, rfl, rfl, ?_, fun l => ?_⟩, ?_, fun l hl => absurd hl (hno l),
      fun l _ _ hl => absurd hl (hno l)⟩
    · rw [e]; exact startsComputation_congr (s := s) (s' := s1) rfl rfl rfl hw
    · have hn : (newRecord cause late s).statuses.get l = none := by
        rw [newRecord_status, if_neg]; rw [isExpected_iff]; exact hno l
      have hs : (s1.slots.get l).age = (s.slots.get l).age ∧ (s1.slots.get l).enabled = (s.slots.get l).enabled ∧
          (s1.slots.get l).muted = (s.slots.get l).muted := by
        simp only [s1, Quad.get_map, Slot.advance]; split <;> exact ⟨rfl, rfl, rfl⟩
      obtain ⟨a1, a2⟩ := closeSlot_notExpected none (s1.slots.get l) (Or.inr rfl)
      rw [hs.2.1, hs.2.2] at a2
      refine ⟨?_, ?_, ?_⟩
      · simp only [closeInfo, Quad.get_map, treatSlots_get, hn, a1, hs.1]
      · simp only [closeInfo, Quad.get_tabulate, closeSelections, hn, a2, sequenceField]
        cases (s.slots.get l).enabled <;> cases (s.slots.get l).muted <;> rfl
      · simp only [closeInfo, closeSelections, Quad.get_tabulate, hn, a2]
    · intro l hl; show (newRecord cause late s).statuses.get l = none
      rw [newRecord_status, if_neg]; rw [isExpected_iff]; exact hl
  · have hyes : ¬ ∀ l, ¬ ExpectedNow s l := fun h => hA ((allArrived_newRecord cause late s).2 h)
    let s1 : State :=
      { s with
        manager := { s.manager with
          state := .gathering, cycle := nextCycle s.manager.cycle, openRecord := some (newRecord cause late s),
          fallback := none, deadline := some s.manager.settings.deadline }
        slots := s.slots.map Slot.advance
        engine := { s.engine with residuals := [] } }
    have e : openCycle cause late s = engineChoose (forLinks offerHead links s1) := by
      unfold openCycle; dsimp only; rw [if_neg hA]; rfl
    have st1 : ∀ l, statusOf l s1 =
        if (s.slots.get l).isExpected (isLeadSlot s.manager.settings l) then some .waiting else none := by
      intro l; rw [← newRecord_status cause late]; rfl
    have sto : ∀ l, o.statuses.get l = statusOf l (openCycle cause late s) := by intro l; unfold statusOf; rw [h]
    refine ⟨fun hn => absurd (fun l hl => hn ⟨l, hl⟩) hyes, ?_, ?_, ?_⟩
    · intro l hl
      have : statusOf l s1 = none := by rw [st1, if_neg]; rw [isExpected_iff]; exact hl
      rw [sto, e, offers_status _ _ (by rw [this]; simp), this]
    · intro l hl hf
      have : statusOf l s1 = some .waiting := by rw [st1, if_pos]; rw [isExpected_iff]; exact hl
      rw [sto, e]
      exact opened_waiting s1 l this hf
    · intro l e' rest hl hf ha
      have : statusOf l s1 = some .waiting := by rw [st1, if_pos]; rw [isExpected_iff]; exact hl
      obtain ⟨g1, g2, g3, g4, g5⟩ := opened_attached s1 l e' rest rfl this rfl hf ha
      rw [sto, e]
      refine ⟨g1, g2, ?_, g5, fun a => by rw [g4]; rfl⟩
      rw [g3]
      have : (s1.slots.get l).slopeCount = (s.slots.get l).slopeCount := by
        simp [s1, Slot.advance]; split <;> rfl
      rw [this]; rfl

/-- An open keeps every setting in force, and the stores. -/
theorem openCycle_settings (c : OpenCause) (b : Bool) (s : State) :
    (openCycle c b s).settingsInForce = s.settingsInForce ∧ (openCycle c b s).stores = s.stores := by
  unfold openCycle; dsimp only
  split
  · next hA =>
    have hst : ∀ l, (newRecord c b s).statuses.get l = none := by
      intro l; rw [newRecord_status, if_neg]; rw [isExpected_iff]; exact (allArrived_newRecord c b s).1 hA l
    refine ⟨?_, ?_⟩
    · unfold closeCycle
      simp [State.settingsInForce, startComputation, treatSlots, links, forLinks, treatSlot_of_none, enterClosing, hst]
      refine ⟨?_, ?_⟩
      · apply Quad.ext_get; intro l; simp [Slot.advance, Slot.entry]; split <;> simp
      · unfold ProbeGenerator.advance; split <;> simp
    · simp [closeCycle, startComputation, treatSlots, enterClosing]
  · refine ⟨?_, ?_⟩
    · simp [State.settingsInForce]; apply Quad.ext_get; intro l; simp [Slot.advance, Slot.entry]; split <;> simp
    · simp

end Sys2Proof.Machine
end

