-- ==== Sys2Proof/Laws/PerInstr.lean ====
section
/-!
SUPPORT. The family WellFormedLaw: what being well formed says of each command, one lemma per constructor.
-/
namespace Sys2Proof.Laws.WellFormedLaw

/-- A command is well formed exactly when a record or an event of the part can carry it: UNKNOWN_COMMAND with a code that
names no command (R175), LOAD with as many words as its count and a length that fits 16 bits (R201), any other command with
any operands. -/
def Statement (i : Instr) : Prop :=
  i.wellFormed = true ↔
    (∀ p code, i = .unknownCommand p code → code ∉ commandCodes) ∧
      ∀ p x, i = .load p x → x.words.length = x.count.toNat ∧ x.count.toNat ≤ 32764

/-- The law of a command that is neither UNKNOWN_COMMAND nor LOAD. -/
theorem plain {i : Instr} (h : i.wellFormed = true) (hu : ∀ p code, i ≠ .unknownCommand p code)
    (hl : ∀ p x, i ≠ .load p x) : Statement i :=
  ⟨fun _ => ⟨fun p code e => absurd e (hu p code), fun p x e => absurd e (hl p x)⟩, fun _ => h⟩

theorem powerOnReset : Statement .powerOnReset :=
  plain rfl nofun nofun

theorem linkStartSymbol (l : LinkId) : Statement (.linkStartSymbol l) :=
  plain rfl nofun nofun

theorem linkDataSymbol (l : LinkId) (w : Word) : Statement (.linkDataSymbol l w) :=
  plain rfl nofun nofun

theorem linkEndSymbol (l : LinkId) : Statement (.linkEndSymbol l) :=
  plain rfl nofun nofun

theorem linkFillSymbol (l : LinkId) : Statement (.linkFillSymbol l) :=
  plain rfl nofun nofun

theorem linkInvalidSymbol (l : LinkId) : Statement (.linkInvalidSymbol l) :=
  plain rfl nofun nofun

theorem timingLineChange : Statement .timingLineChange :=
  plain rfl nofun nofun

theorem lineFilterExpiry : Statement .lineFilterExpiry :=
  plain rfl nofun nofun

theorem lineDelayExpiry : Statement .lineDelayExpiry :=
  plain rfl nofun nofun

theorem periodExpiry : Statement .periodExpiry :=
  plain rfl nofun nofun

theorem fallbackExpiry : Statement .fallbackExpiry :=
  plain rfl nofun nofun

theorem deadlineExpiry : Statement .deadlineExpiry :=
  plain rfl nofun nofun

theorem groupOperationEnd : Statement .groupOperationEnd :=
  plain rfl nofun nofun

theorem closeComputationEnd : Statement .closeComputationEnd :=
  plain rfl nofun nofun

theorem addressSent : Statement .addressSent :=
  plain rfl nofun nofun

theorem boardReady : Statement .boardReady :=
  plain rfl nofun nofun

theorem boardBusy : Statement .boardBusy :=
  plain rfl nofun nofun

theorem readyTimeout : Statement .readyTimeout :=
  plain rfl nofun nofun

theorem blockSent : Statement .blockSent :=
  plain rfl nofun nofun

theorem boardAck : Statement .boardAck :=
  plain rfl nofun nofun

theorem boardNak : Statement .boardNak :=
  plain rfl nofun nofun

theorem ackTimeout : Statement .ackTimeout :=
  plain rfl nofun nofun

theorem gapEnd : Statement .gapEnd :=
  plain rfl nofun nofun

theorem telemetryGo : Statement .telemetryGo :=
  plain rfl nofun nofun

theorem telemetryHold : Statement .telemetryHold :=
  plain rfl nofun nofun

theorem telemetrySymbolSent : Statement .telemetrySymbolSent :=
  plain rfl nofun nofun

theorem portSelect (p : PortId) : Statement (.portSelect p) :=
  plain rfl nofun nofun

theorem transactionByte (p : PortId) (b : Byte) : Statement (.transactionByte p b) :=
  plain rfl nofun nofun

theorem commandByte (p : PortId) (b : Byte) : Statement (.commandByte p b) :=
  plain rfl nofun nofun

theorem resultByte (p : PortId) : Statement (.resultByte p) :=
  plain rfl nofun nofun

theorem portDeselect (p : PortId) : Statement (.portDeselect p) :=
  plain rfl nofun nofun

theorem unknownCommand (p : PortId) (code : Byte) : Statement (.unknownCommand p code) := by
  simp [Statement, Instr.wellFormed]

theorem getStatus (p : PortId) : Statement (.getStatus p) :=
  plain rfl nofun nofun

theorem readCounters (p : PortId) (clear : Byte) : Statement (.readCounters p clear) :=
  plain rfl nofun nofun

theorem setGeometry (p : PortId) (x : GeometryParams) : Statement (.setGeometry p x) :=
  plain rfl nofun nofun

theorem setTiming (p : PortId) (x : TimingParams) : Statement (.setTiming p x) :=
  plain rfl nofun nofun

theorem setSlot (p : PortId) (x : SlotParams) : Statement (.setSlot p x) :=
  plain rfl nofun nofun

theorem setMirror (p : PortId) (x : MirrorParams) : Statement (.setMirror p x) :=
  plain rfl nofun nofun

theorem setProbe (p : PortId) (mode : Byte) : Statement (.setProbe p mode) :=
  plain rfl nofun nofun

theorem setCapture (p : PortId) (x : CaptureParams) : Statement (.setCapture p x) :=
  plain rfl nofun nofun

theorem setOffload (p : PortId) (x : OffloadParams) : Statement (.setOffload p x) :=
  plain rfl nofun nofun

theorem load (p : PortId) (x : LoadParams) : Statement (.load p x) := by
  simp [Statement, Instr.wellFormed, LoadParams.wellFormed]

theorem loadWordWrite : Statement .loadWordWrite :=
  plain rfl nofun nofun

theorem readBack (p : PortId) (x : ReadBackParams) : Statement (.readBack p x) :=
  plain rfl nofun nofun

theorem apply (p : PortId) (selection : Word) : Statement (.apply p selection) :=
  plain rfl nofun nofun

theorem loopStart (p : PortId) : Statement (.loopStart p) :=
  plain rfl nofun nofun

theorem loopClose (p : PortId) : Statement (.loopClose p) :=
  plain rfl nofun nofun

theorem loopFreeze (p : PortId) : Statement (.loopFreeze p) :=
  plain rfl nofun nofun

theorem loopOpen (p : PortId) : Statement (.loopOpen p) :=
  plain rfl nofun nofun

theorem loopStop (p : PortId) : Statement (.loopStop p) :=
  plain rfl nofun nofun

theorem readOffload (p : PortId) : Statement (.readOffload p) :=
  plain rfl nofun nofun

theorem senseEvent (p : PortId) : Statement (.senseEvent p) :=
  plain rfl nofun nofun

theorem resetPart (p : PortId) : Statement (.resetPart p) :=
  plain rfl nofun nofun

theorem timebaseTick : Statement .timebaseTick :=
  plain rfl nofun nofun

theorem resetEnd : Statement .resetEnd :=
  plain rfl nofun nofun

end Sys2Proof.Laws.WellFormedLaw
end

