-- ==== Sys2Proof/Laws/Reception.lean ====
section
/-!
SUPPORT. The abandonment of a frame in STORING: what it keeps of the receivers, and all it does to a queued and to an
attached frame.
-/
namespace Sys2Proof.Machine

/-- What offers, openings, closes and the engine's choices leave of a receiver: all but its FIFO, its flow symbol and its
attached sequence. -/
abbrev receptionView (k : LinkId) (s : State) : Decoder × Reception × Word × Word × Bool × ReceiverCounters :=
  let r := s.receivers.get k
  (r.decoder, r.reception, r.receivedSeq, r.lastGoodSeq, r.primed, r.counters)

/-- An offer keeps the reception of every link. -/
theorem offerHead_reception (l k : LinkId) (s : State) : receptionView k (offerHead l s) = receptionView k s := by
  unfold offerHead; repeat' split
  · rfl
  · by_cases h : k = l
    · subst h; simp [receptionView, attach, quadModify]
    · simp [receptionView, attach, quadModify, Quad.get_set_ne _ _ h]
  · rfl

/-- The engine's choice keeps the reception of every link. -/
theorem engineChoose_reception (k : LinkId) (s : State) : receptionView k (engineChoose s) = receptionView k s := by
  unfold engineChoose; repeat' split
  · rfl
  · rfl
  · next l _ =>
    unfold takeGroup; repeat' split
    · rfl
    · rfl
    · rw [offerHead_reception]
      by_cases h : k = l
      · subst h; simp [receptionView, quadModify, Receiver.withFewer]
      · simp [receptionView, quadModify, Quad.get_set_ne _ _ h]

/-- An opening keeps the reception of every link. -/
theorem openCycle_reception (c : OpenCause) (b : Bool) (k : LinkId) (s : State) :
    receptionView k (openCycle c b s) = receptionView k s := by
  unfold openCycle; dsimp only; split
  · unfold receptionView; rw [(closeCycle_engine .complete _ (newRecord c b s) rfl).2.1]
  · rw [engineChoose_reception]
    exact (forLinks_keeps (receptionView k) offerHead (fun l s => offerHead_reception l k s) links _).trans rfl

/-- A departure from a FIFO keeps the reception of every link. -/
theorem afterDeparture_reception (l k : LinkId) (s : State) :
    receptionView k (afterDeparture l s) = receptionView k s := by
  unfold afterDeparture; rw [engineChoose_reception]; unfold evalLead; split
  · rw [openCycle_reception, offerHead_reception]
  · rw [offerHead_reception]

/-- Where the lead trigger condition does not hold, no cycle opens (R6). -/
theorem evalLead_unmet (s : State) (h : leadCondition s = false) : evalLead s = s := by unfold evalLead; simp [h]

/-- The removal of a stored frame keeps the reception of every link. -/
theorem removeStored_reception (l k : LinkId) (s : State) : receptionView k (removeStored l s) = receptionView k s := by
  unfold removeStored; dsimp only; rw [afterDeparture_reception]
  have : ∀ u, receptionView k (reportAbandoned l u) = receptionView k u := by
    intro u; unfold reportAbandoned; split <;> simp [receptionView, discardSlot]
  split
  · rw [this]; by_cases h : k = l
    · subst h; simp [receptionView, quadModify, Receiver.withFewer]
    · simp [receptionView, quadModify, Quad.get_set_ne _ _ h]
  · by_cases h : k = l
    · subst h; simp [receptionView, quadModify, Receiver.withFewer]
    · simp [receptionView, quadModify, Quad.get_set_ne _ _ h]

/-- The removal of a queued frame, where nothing else is set off, takes its entry from the FIFO and re-evaluates the flow
symbol (R34, R38). -/
theorem removeStored_queued (l : LinkId) (s u : State) (front : List FifoEntry) (e : FifoEntry) (h : s.settledAt l)
    (hm : u.manager = s.manager) (hsl : u.slots = s.slots) (he : u.engine = s.engine)
    (hr : ∀ k, k ≠ l → u.receivers.get k = s.receivers.get k)
    (hf : (u.receivers.get l).fifo = (s.receivers.get l).fifo) (hf' : (s.receivers.get l).fifo = front ++ [e])
    (ha : e.attached = false) :
    removeStored l u = u.onReceiver l (Receiver.withFewer front) := by
  unfold removeStored; dsimp only
  rw [hf, hf']
  have hla : lastAttached (front ++ [e]) = false := by simp [lastAttached, ha]
  rw [hla]; simp only [Bool.false_eq_true, if_false, List.dropLast_concat]
  apply afterDeparture_settled l s _ h
  · simp [hm]
  · simp [hm]
  · simp [hm]
  · simp [hsl]
  · simp [he]
  · intro k hk; simp [quadModify, Quad.get_set_ne _ _ hk, hr k hk]
  · simp [hf']
  · unfold isCandidate; simp [he, hf', Receiver.withFewer]
    cases s.engine.records.get l with
    | none => simp
    | some r => cases front with
      | nil => simp
      | cons x xs => simp

/-- The removal of an attached frame in GATHERING: the slot becomes ABANDONED and the engine discards (R17, R38, R75). -/
theorem removeStored_attached (l : LinkId) (s : State) (front : List FifoEntry) (e : FifoEntry) (o : OpenRecord)
    (v g : Bool) (r : Attachment) (hf : (s.receivers.get l).fifo = front ++ [e]) (ha : e.attached = true)
    (hg : s.manager.state = .gathering) (ho : s.manager.openRecord = some o)
    (hs : o.statuses.get l = some (.attached v g)) (hr : s.engine.records.get l = some r) (hd : r.state ≠ .discarded) :
    (removeStored l s).ports = s.ports ∧
      (removeStored l s).receivers.get l = (s.receivers.get l).withFewer front ∧
      ((removeStored l s).engine.fresh.get l) = [] ∧
      (∀ j, slopeBase s.slots l ≤ j → j < slopeBase s.slots l + (s.slots.get l).slopeCount →
        (removeStored l s).engine.residuals.at j = 0) ∧
      (removeStored l s).engine.records.get l = some { r with state := .discarded } ∧
      (∀ x, s.engine.inFlight = some x → x.slot = l →
        (removeStored l s).engine.inFlight = some { x with isVoid := true }) ∧
      (removeStored l s).manager.cycle = s.manager.cycle ∧
      (removeStored l s).manager.timebase = s.manager.timebase ∧
      statusOf l (removeStored l s) = some .abandoned := by
  set t := s.onReceiver l (Receiver.withFewer front) with ht
  set u := discardSlot l (setStatus l .abandoned t) with hu
  have hst : statusOf l t = some (.attached v g) := by unfold statusOf; simp [ht, ho, hs]
  have hrs : removeStored l s = afterDeparture l u := by
    unfold removeStored; dsimp only; rw [hf]
    have hla : lastAttached (front ++ [e]) = true := by simp [lastAttached, ha]
    rw [hla]; simp only [if_true, List.dropLast_concat]; rw [← ht]
    unfold reportAbandoned; rw [hst]
  have husl : statusOf l u = some .abandoned := by
    simp only [hu, discardSlot, statusOf_onEngine, statusOf_setStatus, if_true]; simp [ht, ho]
  have hum : u.manager.state = .gathering := by simp [hu, discardSlot, setStatus, ht, hg]
  have hue : u.engine = Engine.discard l (slopeBase s.slots l) (s.slots.get l).slopeCount s.engine := by
    simp [hu, discardSlot, setStatus, ht]
  rw [discard_self l _ _ _ r hr hd] at hue
  have hurec : u.engine.records.get l = some { r with state := .discarded } := by rw [hue]; simp
  have hnc : isCandidate u l = false := by
    unfold isCandidate; rw [hurec]; cases (u.receivers.get l).fifo <;> rfl
  have had : afterDeparture l u = engineChoose u := by
    unfold afterDeparture
    rw [offerHead_refused _ _ (Or.inr (by rw [husl]; simp)), evalLead_unmet _ (by simp [leadCondition, hum])]
  have hv := engineChoose_other l u hnc
  have hv1 : (engineChoose u).receivers.get l = u.receivers.get l := congrArg (fun x => x.1) hv
  have hv3 : (engineChoose u).engine.records.get l = u.engine.records.get l := congrArg (fun x => x.2.2.1) hv
  have hv4 : (engineChoose u).engine.fresh.get l = u.engine.fresh.get l := congrArg (fun x => x.2.2.2) hv
  rw [hrs, had]
  refine ⟨by simp [hu, discardSlot, setStatus, ht], ?_, ?_, ?_, ?_, ?_, by simp [hu, discardSlot, setStatus, ht],
    by simp [hu, discardSlot, setStatus, ht], (congrArg (fun x => x.2.1) hv).trans husl⟩
  · rw [hv1]; simp [hu, discardSlot, setStatus, ht, quadModify]
  · rw [hv4, hue]; simp
  · intro j a b; rw [(engineChoose_keepsResults u).1, hue]; simp [Cells.at_clearRange, a, b]
  · rw [hv3, hurec]
  · intro x hx hxl
    have : u.engine.inFlight = some { x with isVoid := true } := by rw [hue]; simp [hx, voidFor, hxl]
    rw [engineChoose_settled _ (Or.inl (by rw [this]; simp)), this]

/-- The abandonment of the frame in STORING by a symbol at which the decoder becomes `d` (R37, R38). -/
theorem abandonInto_abandonsStored (s : State) (c : Instr) (l : LinkId) (d : Decoder) (next : Reception)
    (cause : AbandonCause) (f : RxFrame) (hr : (s.receivers.get l).reception = .storing f)
    (he : exec c s = .next (abandonInto l cause next (s.onReceiver l (fun r => { r with decoder := d })))) :
    s.abandonsStored c l d next (ReceiverCounters.abandon cause) := by
  set u := s.onReceiver l (fun r =>
    { r with decoder := d, reception := next, counters := ReceiverCounters.abandon cause r.counters }) with hu
  have e : exec c s = .next (removeStored l u) := by
    rw [he]; unfold abandonInto; dsimp only
    simp only [State.onReceiver_receivers, quadModify, Quad.get_set_self, hr, setReception, onReceiver_onReceiver]; rfl
  refine ⟨fun front x hf ha hset => ?_, ?_⟩
  · rw [e, removeStored_queued l s u front x hset (by simp [hu]) (by simp [hu]) (by simp [hu])
      (fun k hk => by simp [hu, quadModify, Quad.get_set_ne _ _ hk]) (by simp [hu]) hf ha, hu, onReceiver_onReceiver]
    rfl
  · have hv := removeStored_reception l l u
    simp only [receptionView, Prod.mk.injEq] at hv
    obtain ⟨v1, v2, v3, v4, v5, v6⟩ := hv
    refine ⟨_, e, by rw [v2]; simp [hu], by rw [v1]; simp [hu], by rw [v6]; simp [hu], by rw [v3]; simp [hu],
      by rw [v4]; simp [hu], by rw [v5]; simp [hu], ?_⟩
    intro front x o v g r hf ha hg ho hs hrec hd
    obtain ⟨-, a2, a3, a4, a5, a6, -, -, a9⟩ := removeStored_attached l u front x o v g r (by simp [hu, hf]) ha
      (by simp [hu, hg]) (by simp [hu, ho]) hs (by simp [hu, hrec]) hd
    refine ⟨by rw [a2]; rfl, by rw [a2]; simp [hu, Receiver.withFewer, Flow.afterRemoval, Config.goAt],
      fun a => by rw [a3]; rfl, by simpa [hu] using a4, a5, by simpa [hu] using a6, ?_⟩
    unfold statusOf at a9; split at a9
    · cases a9
    · next o' ho' => exact ⟨o', ho', a9⟩

end Sys2Proof.Machine
end

