-- ==== Sys2Proof/Laws/Values.lean ====
section
/-!
SUPPORT. What the functions of single values give: counters, word counts, phases, byte orders, the ack mask, the layout of
the capture settings and the parameter bytes that a port holds.
-/
namespace Sys2Proof.Machine

/-- A counter increases by 1 below its largest value, and stays there (R22). -/
theorem Counter.increase_spec (c : Counter) : (c.toNat < 4294967295 → (Counter.increase c).toNat = c.toNat + 1) ∧
    (c.toNat = 4294967295 → Counter.increase c = c) := by
  refine ⟨fun h => ?_, fun h => ?_⟩
  · unfold Counter.increase; rw [if_neg (by rintro rfl; simp at h)]
    simp only [BitVec.toNat_add]; simp; omega
  · unfold Counter.increase; rw [if_pos]; apply BitVec.eq_of_toNat_eq; simp [h]

/-- The expected word count of a DATA and of a NOTICE frame (R29). -/
theorem RxFrame.expected_spec (f : RxFrame) : (f.word0.extractLsb' 8 8 = 1 → f.expected = 3 + f.word2.toNat + 1) ∧
    (f.word0.extractLsb' 8 8 = 2 → f.expected = 4) := by
  refine ⟨fun h => ?_, fun h => ?_⟩
  · simp [RxFrame.expected, RxFrame.isData, RxFrame.kind, h]; omega
  · simp [RxFrame.expected, RxFrame.isData, RxFrame.kind, h]

/-- A port takes a command in IDLE and in COMMAND alone (R172, R174). -/
theorem Port.takesCommand_iff (x : Port) :
    x.takesCommand = true ↔ x.activity = .idle ∨ ∃ r, x.activity = .command r := by
  unfold Port.takesCommand; cases x.activity <;> simp

/-- The link state by decoder (R27). -/
theorem Receiver.linkState_eq (r : Receiver) : r.linkState =
    match r.decoder with
    | .unlocked _ => .down
    | .locked _ good => if good then .up else .locked := by
  unfold Receiver.linkState; split <;> rename_i h <;> simp [h]

/-- A cycle is open in GATHERING and CLOSING (1.1). -/
theorem cycleIsOpen_iff (s : State) :
    s.cycleIsOpen = true ↔ s.manager.state = .gathering ∨ s.manager.state = .closing := by
  unfold State.cycleIsOpen; cases s.manager.state <;> simp

/-- The bytes of a 32-bit value are those of its two words, the high one first (R199). -/
theorem bytes32_eq (w : BitVec 32) :
    bytes32 w = bytes16 (w.extractLsb' 16 16) ++ bytes16 (w.extractLsb' 0 16) := by
  simp only [bytes32, bytes16, List.cons_append, List.nil_append, List.cons.injEq, and_true]
  refine ⟨?_, ?_, ?_, ?_⟩ <;>
    (apply BitVec.eq_of_getLsbD_eq; intro i hi; simp only [BitVec.getLsbD_extractLsb', hi, decide_true, Bool.true_and]
     rw [decide_eq_true (by omega), Bool.true_and]; congr 1; omega)

/-- The bytes of a stamp are those of its high word and of its low 32 bits (R199). -/
theorem bytes48_eq (w : Stamp) :
    bytes48 w = bytes16 (w.extractLsb' 32 16) ++ bytes32 (w.extractLsb' 0 32) := by
  simp only [bytes48, bytes32, bytes16, List.cons_append, List.nil_append, List.cons.injEq, and_true]
  refine ⟨?_, ?_, ?_, ?_, ?_, ?_⟩ <;>
    (apply BitVec.eq_of_getLsbD_eq; intro i hi; simp only [BitVec.getLsbD_extractLsb', hi, decide_true, Bool.true_and]
     rw [decide_eq_true (by omega), Bool.true_and]; congr 1; omega)

/-- A bit of the ack mask (R153). -/
theorem ackBit_getLsbD (n m : Nat) (o : BoardOutcome) (hm : m < 8) :
    (ackBit n o).getLsbD m = (decide (n = m) && decide (o = .acked)) := by
  unfold ackBit flagBit; (cases o <;> simp)
  by_cases h : n = m <;> simp [h, hm]; omega

/-- The ack mask has the bit of a board exactly if the board is ACKED (R153). -/
theorem ackMask_getLsbD (r : WriteoutReport) (i : BoardId) :
    r.ackMask.getLsbD i.val = decide (r.outcomes.get i = .acked) := by
  unfold WriteoutReport.ackMask
  simp only [BitVec.getLsbD_or, ackBit_getLsbD _ i.val _ i.isLt]
  match i with
  | 0 => simp [Octet.get]; rfl
  | 1 => simp [Octet.get]; rfl
  | 2 => simp [Octet.get]; rfl
  | 3 => simp [Octet.get]; rfl
  | 4 => simp [Octet.get]; rfl
  | 5 => simp [Octet.get]; rfl
  | 6 => simp [Octet.get]; rfl
  | 7 => simp [Octet.get]; rfl

/-- The capture settings in the layout of SET CAPTURE (R201), the parameters that the pattern does not name as 0 (log 14). -/
theorem CaptureSettings.bytes_eq (x : CaptureSettings) (content : Byte)
    (h : content = (if x.drive then 1 else 0) + (if x.residual then 2 else 0)) : x.bytes =
      match x.pattern with
      | .off => [0, content] ++ List.replicate 8 0
      | .every n => [1, content] ++ bytes16 (BitVec.ofNat 16 n) ++ List.replicate 6 0
      | .burst m n => [2, content] ++ bytes16 (BitVec.ofNat 16 m) ++ bytes16 (BitVec.ofNat 16 n) ++ List.replicate 4 0
      | .mask n bits => [3, content] ++ bytes16 (BitVec.ofNat 16 n) ++ [0, 0] ++ bytes32 bits := by
  have e : content = (flagBit 0 x.drive ||| flagBit 1 x.residual) := by
    rw [h]; cases x.drive <;> cases x.residual <;> decide
  subst e; unfold CaptureSettings.bytes; cases x.pattern <;> rfl

/-- A port holds no parameter byte of a code that names no command (log 25). -/
theorem heldBytes_of_unknown : ∀ c : Byte, c ∉ commandCodes → heldBytes c = 0 := by decide +kernel

end Sys2Proof.Machine
end

