-- ==== Sys2Proof/Tests/Slice0.lean ====
section
/-!
SUPPORT. The author's own tests: the ill-formed commands that the check refuses, the manual's worked cases on single
operations and single steps, and for every statement with hypotheses concrete states and operands that meet them, at the
boundary values of its clauses.
-/
namespace Sys2Proof.Tests
open Sys2Proof Sys2Proof.Machine

/-! ## Helpers -/

/-- The state after one command; the state itself if the command stopped. -/
def after (c : Instr) (s : State) : State :=
  match exec c s with
  | .next t => t
  | .fault _ => s
  | .refused _ => s

/-- The state after a few commands, one after another. -/
def run : List Instr → State → State
  | [], s => s
  | c :: cs, s => run cs (after c s)

/-- Reset with the loop and the cycle manager in given states. -/
def inLoop (l : LoopState) (m : ManagerState) : State :=
  { State.reset with loop := { State.reset.loop with loop := l }, manager := { State.reset.manager with state := m } }

/-- The open fields of a test cycle. -/
def opened (l : LoopState) : OpenInfo :=
  { cycle := 1, cause := .timer, lateStart := false, time := 0, loop := l, generation := 0,
    settings := State.reset.settingsInForce }

/-- An open record with the given statuses. -/
def openWith (l : LoopState) (q : Quad (Option AttachStatus)) : OpenRecord :=
  { opened := opened l, statuses := q, closing := none }

/-- A state in GATHERING with the given statuses, loop CLOSED, slot 0 enabled. -/
def gathering (q : Quad (Option AttachStatus)) : State :=
  { (inLoop .closed .gathering) with
    manager := { (inLoop .closed .gathering).manager with openRecord := some (openWith .closed q), deadline := some 0 }
    slots := { State.reset.slots with q0 := { Slot.powerOn with enabled := true, state := .active } } }

/-- No slot expected. -/
def noStatus : Quad (Option AttachStatus) := Quad.fill none

/-- Slot 0 expected with one status. -/
def status0 (x : AttachStatus) : Quad (Option AttachStatus) := { noStatus with q0 := some x }

/-- A working set over power-on stores, for 128 actuators. -/
def working (l : LoopState) : WorkingSet :=
  { selections := Quad.fill .notExpected, contributions := Quad.fill [], loop := l, gains := [], groupmap := [],
    offsets := [], limits := [], neighbours := [], probe := [], count := 128, u := [] }

/-- The close fields of a test cycle. -/
def closing : CloseInfo :=
  { cause := .complete, time := 0, selections := Quad.fill .notExpected, ages := Quad.fill 0, sequences := Quad.fill 0,
    probePosition := none, previous := none }

/-- A state in CLOSING with its computation in flight, in a given loop state. -/
def inClosing (l : LoopState) : State :=
  { (inLoop l .closing) with
    manager := { (inLoop l .closing).manager with
      openRecord := some { openWith l noStatus with closing := some closing } }
    command := { State.reset.command with working := some (working l) } }

/-- Receiver 0 locked with reception `r`, window `w` and mark `g`. -/
def receiving (r : Reception) (w : List Bool) (g : Bool) (s : State) : State :=
  s.onReceiver 0 (fun x => { x with decoder := .locked w g, reception := r })

/-- A frame with tag 0 and slope count 32, after `n` words. -/
def frame (n : Nat) : RxFrame :=
  { taken := n, crc := 0, word0 := 0x0100, sequence := 7, word2 := 32, crcWord := 0, slopes := [], tag := 0,
    slopeCount := 32 }

/-- Port A in an activity. -/
def portA (a : PortActivity) (s : State) : State := s.onPort .A (fun q => { q with activity := a })

/-- Port A in a transaction. -/
def inTransaction (k : TransactionKind) (s : State) : State :=
  s.onPort .A (fun q => { q with transaction := some { statusByte := 0x80, kind := k, discarded := false } })

/-- A writeout of 256 actuators at a board, and the link in a phase of it. -/
def writeout (b : BoardId) (x : Nat) : Writeout :=
  { vector := { values := [], cycle := 5, count := 256 }, board := b, extensions := x, outcomes := Octet.fill .notWritten }

/-- The mirror link in a phase. -/
def linkIn (w : Writeout) (p : WritePhase) (s : State) : State :=
  { s with mirror := { s.mirror with activity := .writing w p } }

/-- A frame entry with one group. -/
def entry (attached : Bool) (groups : Nat) : FifoEntry :=
  { sequence := 7, attached := attached, verified := false, groups := List.replicate groups (List.replicate 32 0),
    taken := 0 }

/-- An operation of slot 0. -/
def operation (void : Bool) : Operation :=
  { slot := 0, group := 0, isVoid := void, firstIndex := 0, residuals := List.replicate 32 1, sums := [(3, 10)] }

/-- The attachment record of a frame of `n` groups. -/
def attachment (n : Nat) (x : RecordState) : Attachment := { sequence := 7, groups := n, done := 0, state := x }

/-- The engine with an operation of slot 0 in flight, its frame of `n` groups. -/
def inOperation (void : Bool) (n : Nat) (s : State) : State :=
  { s with engine := { s.engine with
      inFlight := some (operation void)
      records := { s.engine.records with q0 := some (attachment n .accumulating) } } }

/-- A result with one data byte. -/
def result1 : ResultRecord := { code := 0x14, cls := .complete, reason := .none, data := [9] }

/-! ## The ill-formed commands -/

theorem test_unknown_with_known_code : (Instr.unknownCommand .A 0x41).wellFormed = false := by decide

theorem test_load_with_too_few_words :
    (Instr.load .A { store := 0, first := 0, count := 2, words := [1] }).wellFormed = false := by decide

theorem test_load_with_too_many_words :
    (Instr.load .A { store := 0, first := 0, count := 1, words := [1, 2] }).wellFormed = false := by decide

theorem test_load_longer_than_a_record :
    ∀ ws, LoadParams.wellFormed { store := 0, first := 0, count := 32765, words := ws } = false := by
  intro ws
  simp [LoadParams.wellFormed]

theorem test_well_formed_commands :
    (Instr.unknownCommand .B 0x03).wellFormed = true ∧
      (Instr.load .A { store := 9, first := 0, count := 1, words := [5] }).wellFormed = true := by decide

/-! ## The manual's worked cases on single operations -/

/-- The CRC of four words, as a register with initial ones and no final inversion gives it (R28). -/
theorem test_crc_check_word : crcOf [0x3132, 0x3334, 0x3536, 0x3738] = 0xA12B := by decide +kernel

theorem test_crc_of_itself_is_zero : crcOf [0x3132, 0x3334, 0x3536, 0x3738, 0xA12B] = 0 := by decide +kernel

/-- The bases of the example of R49. -/
theorem test_slope_bases :
    (let q : Quad Slot :=
      ⟨{ Slot.powerOn with enabled := true, slopeCount := 512 }, { Slot.powerOn with slopeCount := 256 },
        { Slot.powerOn with enabled := true, slopeCount := 512 }, { Slot.powerOn with enabled := true, slopeCount := 256 }⟩
    (slopeBase q 0, slopeBase q 1, slopeBase q 2, slopeBase q 3)) = (0, 512, 512, 1024) := by decide

/-- The group of 4.10: one residual saturates, the sum is 2,155,360. -/
theorem test_group_arithmetic :
    groupSum [(229393, 1500), (230417, BitVec.ofInt 16 (-20)), (231441, 9999)] 17 224
      (residualsFrom [(224, 200), (225, 4000), (226, 500)] 224 [1200, BitVec.ofInt 16 (-31000), 500]) = 2155360 := by decide +kernel

/-- The working set of the close of 5.10: actuator 17 in gain group 2. -/
def worked : WorkingSet :=
  { working .closed with
    selections := { (working .closed).selections with q0 := .fresh }
    contributions := { (working .closed).contributions with q0 := [(17, 2457600)] }
    gains := [(4, 19661), (5, 65207)]
    groupmap := [(17, 2)]
    offsets := [(17, BitVec.ofInt 16 (-5))]
    limits := [(34, BitVec.ofInt 16 (-2000)), (35, 30)]
    u := [(17, 1310720)] }

/-- The stages of 5.10. -/
theorem test_close_stages :
    (increment worked 17, leaked worked 17, candidate worked 17, positionOf worked 17, rounded worked 17) =
      (1474575, 1304160, 2778735, 2451055, 37) := by decide +kernel

theorem test_close_limited :
    ((closeResult worked).d.at 17, (closeResult worked).u.at 17, (closeResult worked).counts) =
      (30, 2293760, ⟨1, 0, 0⟩) := by decide +kernel

theorem test_close_within_limits :
    ((closeResult { worked with limits := [(34, BitVec.ofInt 16 (-2000)), (35, 100)] }).d.at 17,
      (closeResult { worked with limits := [(34, BitVec.ofInt 16 (-2000)), (35, 100)] }).u.at 17) = (37, 2778735) := by decide +kernel

/-- A close with gain G in group 0, leak word `l`, error sum `e` and integrator `u` for actuator 0 (5.11). -/
def tie (g l : BitVec 16) (e : Int) (u : Int) : WorkingSet :=
  { working .closed with
    selections := { (working .closed).selections with q0 := .held }
    contributions := { (working .closed).contributions with q0 := [(0, BitVec.ofInt 48 e)] }
    gains := [(0, g), (1, l)]
    u := [(0, BitVec.ofInt 40 u)] }

/-- The ties of 5.11 go toward plus infinity. -/
theorem test_ties :
    (increment (tie 1 0 16384 0) 0, increment (tie 1 0 (-16384) 0) 0, increment (tie 3 0 (-16384) 0) 0,
      leaked (tie 0 32767 0 1) 0, leaked (tie 0 32767 0 (-1)) 0, leaked (tie 0 32767 0 (-3)) 0) = (1, 0, -1, 1, 0, -1) := by decide +kernel

/-- The first two entries of the pass of 6.6. -/
theorem test_neighbour_pass :
    neighbourPass [⟨10, 11, 10⟩, ⟨11, 12, 4⟩] [0, 0, 0, 0, 0, 0, 0, 0, 0, 0, 40, 10, 30, -5] =
      ([0, 0, 0, 0, 0, 0, 0, 0, 0, 0, 30, 23, 27, -5], 2) := by decide

/-- The PROBES store of 8.9. -/
def probes89 : Cells 16 :=
  [(0, 4), (1, 17), (2, 20), (3, 18), (4, BitVec.ofInt 16 (-10)), (5, 17), (6, 5), (7, 900), (8, 50), (129, 3), (130, 18),
    (131, 30000), (132, 18), (133, 10000), (134, 40), (135, 0x8000)]

/-- The amplitudes of 8.9, saturated once. -/
theorem test_probe_amplitudes :
    (probeAmplitude probes89 512 0 17, probeAmplitude probes89 512 0 18, probeAmplitude probes89 512 1 18,
      probeAmplitude probes89 512 1 40) = (25, -10, 32767, -32768) := by decide +kernel

theorem test_probe_terms_at_odd_positions :
    (probeTerm probes89 512 1 17, probeTerm probes89 512 3 18, probeTerm probes89 512 3 40) = (-25, -32767, 32767) := by decide +kernel

/-- The window of 12.6. -/
theorem test_offload_window_means :
    (windowMean 1966080000 4, windowMean (BitVec.ofInt 64 (-327680)) 4) = (15000, -2) := by decide

/-- The status byte in three phases (R173). -/
theorem test_status_bytes :
    ({ Port.powerOn with activity := .idle }.statusByte, { Port.powerOn with activity := .executing .loop }.statusByte,
      { Port.powerOn with activity := .result result1 0 }.statusByte) = (0x80, 0x42, 0x23) := by decide

/-! ## Single steps -/

theorem test_sixty_fourth_symbol_locks :
    (let t := after (.linkFillSymbol 2) (State.reset.onReceiver 2 (fun r => { r with decoder := .unlocked 63 }))
    ((t.receivers.get 2).linkState, t.ports.pA.queue.map EventRecord.subject)) = (.locked, [.linkChange 2 .locked]) := by decide

theorem test_start_opens_header :
    (after (.linkStartSymbol 0) (receiving .between [] false (gathering noStatus))).receivers.q0.reception =
      .header { taken := 0, crc := 0xFFFF, word0 := 0, sequence := 0, word2 := 0, crcWord := 0, slopes := [], tag := 0,
                slopeCount := 32 } := by decide

theorem test_accepted_header_attaches :
    (after (.linkDataSymbol 0 32) (receiving (.header (frame 2)) [] false (gathering (status0 .waiting)))).manager.openRecord =
      some (openWith .closed (status0 (.attached false false))) := by decide

theorem test_end_too_early_is_framing :
    (after (.linkEndSymbol 0) (receiving (.header (frame 1)) [] false (gathering noStatus))).receivers.q0.counters.framing = 1 := by decide

/-- With no slot enabled the cycle closes as it opens (R13). -/
theorem test_period_trigger_opens :
    (let t := after .periodExpiry { (inLoop .opened .armed) with
        manager := { (inLoop .opened .armed).manager with period := some 0 } }
    (t.manager.cycle, t.manager.state, t.manager.period)) = (1, .closing, some 10000) := by decide

theorem test_deadline_closes :
    (let t := after .deadlineExpiry (gathering (status0 .waiting))
    (t.manager.state, t.slots.q0.state, t.slots.q0.age, t.manager.counters.deadlineCloses)) = (.closing, .holding, 1, 1) := by decide

/-- The last arrival of slot 0, LOST, with slot 1 arrived and muted, slot 2 enabled, muted and not expected, and slot 3
enabled and not expected (R53, R54, R60, R78). -/
def lastArrival : State :=
  let s := inOperation false 1 (gathering { status0 (.attached true false) with q1 := some .arrived })
  let x : Slot := { Slot.powerOn with enabled := true, age := 2 }
  { s with slots :=
      ⟨{ x with state := .lost }, { x with state := .muted, muted := true }, { x with state := .muted, muted := true },
        { x with state := .holding }⟩ }

theorem test_complete_close_treats_slots :
    (let t := after .groupOperationEnd lastArrival
    (t.slots.map (fun x => (x.state, x.age)), t.manager.openRecord.bind (fun o => o.closing.map CloseInfo.selections),
      t.ports.pB.queue.map EventRecord.subject)) =
      (⟨(.active, 0), (.muted, 0), (.muted, 2), (.holding, 2)⟩, some ⟨.fresh, .fresh, .muted, .notExpected⟩,
        [.slotChange 0 .active]) := by decide

/-- Both ports have the events in ascending slot order, and the slots that stay disabled post none (R48). -/
theorem test_geometry_posts_in_order :
    (let x : GeometryParams := { actuatorCount := 128, slots := ⟨⟨0, 0, 32⟩, ⟨1, 7, 64⟩, ⟨0, 0, 32⟩, ⟨1, 9, 32⟩⟩ }
    let t := after (.setGeometry .A x) State.reset
    (t.ports.pA.queue.map EventRecord.subject, t.ports.pB.queue.map EventRecord.subject, t.ports.pA.activity)) =
      ([.slotChange 1 .active, .slotChange 3 .active], [.slotChange 1 .active, .slotChange 3 .active],
        .result { code := 0x10, cls := .complete, reason := .none,
                  data := [0, 128, 0, 0, 0, 32, 1, 7, 0, 64, 0, 0, 0, 32, 1, 9, 0, 32, 0] } 0) := by decide

theorem test_counter_stops_at_its_largest :
    (Counter.increase 0xFFFFFFFE, Counter.increase 0xFFFFFFFF, Counter.increase 0) = (0xFFFFFFFF, 0xFFFFFFFF, 1) := by decide

theorem test_close_computation_hands_over :
    (let t := after .closeComputationEnd (inClosing .opened)
    (t.manager.state, t.mirror.line, t.manager.lastRecord.isSome)) = (.armed, [.address, .word 0], true) := by decide +kernel

theorem test_board_acknowledges :
    (let t := after .boardAck (linkIn (writeout 1 0) (.waitAck 5) State.reset)
    (t.mirror.activity, t.mirror.boards.o1.state, t.mirror.latest.map WriteoutReport.ackMask)) = (.idle, .ok, some 2) := by decide

theorem test_third_failure_faults_and_trips :
    (let s := linkIn (writeout 0 0) (.waitReady 0) (inLoop .closed .armed)
    let t := after .readyTimeout { s with mirror := { s.mirror with boards := { s.mirror.boards with o0 := ⟨.ok, 2⟩ } } }
    (t.mirror.boards.o0, t.loop.loop)) = (⟨.faulted, 3⟩, .frozen) := by decide

theorem test_telemetry_starts :
    (after .telemetrySymbolSent { State.reset with
      capture := { State.reset.capture with fifo := [[1, 2]] } }).capture.symbol = .start := by decide

/-- A record of three bytes makes GET STATUS in its last byte (R174, R175). -/
theorem test_put_of_get_status :
    (run [.portSelect .A, .transactionByte .A 2, .commandByte .A 1, .commandByte .A 0, .commandByte .A 0,
      .portDeselect .A] State.reset).ports.pA.phase = .result := by decide

theorem test_take_returns_the_result :
    (let t := run [.portSelect .A, .transactionByte .A 3, .resultByte .A, .resultByte .A] (portA (.result result1 0) State.reset)
    (t.ports.pA.sent, t.ports.pA.activity)) = (0, .result result1 2) := by decide

/-- A port in COMMAND whose transaction waits for its byte when the other port resets the part: the PUT that follows is
ignored, and its bytes start no record (R172, R183). -/
theorem test_put_after_reset_part_is_ignored :
    (let s := inTransaction .awaiting (portA (.command { code := 0x11, lengthHigh := none, length := none, counted := 0,
                                                         params := [] }) State.reset)
    let t := run [.resetPart .B, .transactionByte .A 2, .commandByte .A 1] s
    (t.ports.pA.activity, t.ports.pA.transaction.map Transaction.kind, t.ports.pA.sent)) = (.idle, some .ignored, 0) := by
  decide

/-- The status data are as long with a LOAD in execution as without one: its fields have a presence byte (R158, R202). -/
theorem test_status_length_with_and_without_load :
    (statusData .A State.reset).length = (statusData .A (after (.load .B { store := 2, first := 5, count := 1, words := [77] })
      State.reset)).length := by decide +kernel

/-- The open record holds the settings in force at its open (R21). -/
theorem test_open_copies_settings :
    (after .periodExpiry { (inLoop .opened .armed) with
        manager := { (inLoop .opened .armed).manager with period := some 0 } }).manager.openRecord.map (fun o => o.opened.settings) =
      some State.reset.settingsInForce := by decide +kernel

theorem test_loop_start_needs_a_slot :
    (after (.loopStart .A) State.reset).ports.pA.activity =
      .result { code := 0x30, cls := .rejected, reason := .notConfigured, data := [] } 0 := by decide

theorem test_load_then_write_then_apply :
    (let t := run [.load .A { store := 2, first := 5, count := 1, words := [77] }, .loadWordWrite, .apply .B 4] State.reset
    (t.stores.active.offsets, t.stores.shadow.offsets, t.stores.generation)) = ([(5, 77)], [], 1) := by decide

theorem test_reset_line :
    (let t := run [.powerOnReset, .linkFillSymbol 0, .resetEnd] (gathering noStatus)
    (t.receivers.q0.flow, t.receivers.q0.decoder, t.manager.state)) = (.go, .unlocked 0, .idle) := by decide

theorem test_timebase_counts :
    (after .timebaseTick { State.reset with manager := { State.reset.manager with deadline := some 3 } }).manager.deadline =
      some 2 := by decide

theorem test_table_gives_no_bits :
    decodeTableWord 16 0x3001 = none ∧ State.reset.withFetchWord 16 0x3001 = State.reset := by decide

/-! ## The hypotheses of the statements are met -/

theorem test_witness_StepRunsFrontCommand :
    (∃ (c : Instr) (rest : List Instr), ({ State.reset with pending := [.boardReady] } : State).pending = c :: rest) ∧
      State.reset.pending = [] := ⟨⟨_, _, rfl⟩, rfl⟩

theorem test_witness_ResetSuspendsCommands :
    ({ State.reset with resetActs := true } : State).resetActs = true ∧ Instr.boardReady ≠ .powerOnReset ∧
      Instr.boardReady ≠ .resetEnd ∧ Instr.boardReady ≠ .timebaseTick ∧ Instr.boardReady ≠ .timingLineChange := by decide

theorem test_witness_ResetEndSendsGo :
    ({ State.reset with resetActs := true } : State).resetActs = true := by decide

/-- Every timer of the cycle manager and the timing line at `r`, the timebase at its largest value. -/
def timers (r : Word) : State :=
  { State.reset with
    manager := { State.reset.manager with
      timebase := 281474976710655, period := some r, deadline := some r, lineDelay := some r, fallback := some r }
    line := { State.reset.line with measuring := some r } }

theorem test_witness_TimebaseTickAdvances :
    (∀ r ∈ [(0 : Word), 1], (timers r).manager.timebase = 281474976710655 ∧ (timers r).manager.period = some r ∧
        (timers r).manager.deadline = some r ∧ (timers r).manager.lineDelay = some r ∧
        (timers r).manager.fallback = some r ∧ (timers r).line.measuring = some r) ∧
      State.reset.manager.timebase ≠ 281474976710655 ∧ State.reset.manager.period = none ∧
      State.reset.manager.deadline = none ∧ State.reset.manager.lineDelay = none ∧ State.reset.manager.fallback = none ∧
      State.reset.line.measuring = none ∧ State.reset.mirror.activity = .idle := by
  refine ⟨fun r _ => ⟨rfl, rfl, rfl, rfl, rfl, rfl⟩, ?_, rfl, rfl, rfl, rfl, rfl, rfl⟩
  show (0 : Stamp) ≠ 281474976710655
  simp

theorem test_witness_TimebaseTickAdvances_mirror :
    ∀ p ∈ [WritePhase.waitReady 0, .waitReady 1, .waitAck 0, .waitAck 1, .gap 0, .gap 1, .addressing, .sending],
      (linkIn (writeout 0 0) p State.reset).mirror.activity = .writing (writeout 0 0) p := fun _ _ => rfl

/-- A state in LINE mode with the line levels, delay, queueing and latch given, in a manager state. -/
def lineMode (m : ManagerState) (raw filtered : Bool) (f : LineFilter) (delay : Word) (queue : Bool)
    (latch : Option LatchedCause) (running measuring : Timer) : State :=
  { (inLoop .opened m) with
    manager := { (inLoop .opened m).manager with
      settings := { TimingSettings.powerOn with mode := .line, filter := f, delay := delay, queue := queue }
      latch := latch
      lineDelay := running }
    line := { raw := raw, filtered := filtered, measuring := measuring } }

theorem test_witness_TimingLineLevels :
    (∀ s ∈ [State.reset, lineMode .idle true true .off 0 true none none none,
        lineMode .idle true false .f2 0 true none none (some 0), lineMode .idle true true .f2 0 true none none none,
        lineMode .idle true true .f10 0 true none none none, lineMode .idle true true .f50 0 true none none none,
        lineMode .idle true true .f200 0 true none none none],
        s.resetActs = false ∧ (s.manager.settings.mode ≠ .line ∨ s.manager.state = .idle)) ∧
      State.reset.line.raw = State.reset.line.filtered ∧ State.reset.manager.settings.filter = .off ∧
      (lineMode .idle true false .f2 0 true none none (some 0)).line.raw ≠
        (lineMode .idle true false .f2 0 true none none (some 0)).line.filtered ∧
      (lineMode .idle true false .f2 0 true none none (some 0)).line.measuring = some 0 ∧
      ∀ f ∈ [(LineFilter.f2, (2 : Word)), (.f10, 10), (.f50, 50), (.f200, 200)],
        (lineMode .idle true true f.1 0 true none none none).line.raw = true ∧
        (lineMode .idle true true f.1 0 true none none none).line.filtered = true ∧
        (lineMode .idle true true f.1 0 true none none none).manager.settings.filter = f.1 := by decide

theorem test_witness_PassedEdgeStartsDelay :
    (∀ s ∈ [lineMode .armed false false .off 1 true none none none, lineMode .gathering false false .off 0 true none none none,
        lineMode .closing false false .off 0 false none none none,
        lineMode .closing false false .off 0 true (some .timer) none none,
        lineMode .armed false false .off 0 true none (some 1) none],
        s.resetActs = false ∧ s.manager.settings.mode = .line ∧ s.manager.state ≠ .idle ∧ s.line.filtered = !true ∧
        s.manager.settings.filter = .off ∧ s.line.raw = !true ∧ (s.manager.settings.edge = .rising ↔ true = true)) ∧
      (lineMode .armed false false .off 1 true none none none).manager.settings.delay ≠ 0 ∧
      (lineMode .gathering false false .off 0 true none none none).cycleIsOpen = true ∧
      (lineMode .closing false false .off 0 false none none none).cycleIsOpen = true ∧
      (lineMode .closing false false .off 0 false none none none).manager.settings.queue = false ∧
      (lineMode .closing false false .off 0 true (some .timer) none none).manager.latch ≠ none ∧
      (lineMode .armed false false .off 0 true none (some 1) none).manager.lineDelay = some 1 := by decide

theorem test_witness_PassedEdgeStartsDelay_expiry :
    (let s := lineMode .armed true false .f2 1 true none none (some 0)
    s.resetActs = false ∧ s.manager.settings.mode = .line ∧ s.manager.state ≠ .idle ∧ s.line.filtered = !true ∧
      s.line.measuring = some 0 ∧ s.line.raw = true ∧ (s.manager.settings.edge = .rising ↔ true = true)) ∧
    (let s := lineMode .armed true true .off 1 true none none none
    s.resetActs = false ∧ s.manager.settings.mode = .line ∧ s.manager.state ≠ .idle ∧ s.line.filtered = !false ∧
    s.manager.settings.filter = .off ∧ s.line.raw = !false ∧ ¬(s.manager.settings.edge = .falling) ∧
      (({ s with manager := { s.manager with settings := { s.manager.settings with edge := .falling } } } :
        State).manager.settings.edge = .falling)) := by decide

theorem test_witness_TriggerWhileCycleOpen :
    ∀ s ∈ [lineMode .gathering false false .off 0 true none (some 0) none, lineMode .closing false false .off 0 false none (some 0) none,
      lineMode .closing false false .off 0 true (some .line) (some 0) none],
    s.resetActs = false ∧ s.cycleIsOpen = true ∧ s.manager.lineDelay = some 0 ∧
        ((s.manager.settings.queue = true ∧ s.manager.latch = none) ∨ s.manager.settings.queue = false ∨
          s.manager.latch ≠ none) ∧
        ({ s with manager := { s.manager with period := some 0 } } : State).manager.period = some 0 := by decide

theorem test_witness_TriggerOpensCycle :
    (let s := lineMode .armed false false .off 0 true none (some 0) none
    s.resetActs = false ∧ s.manager.state = .armed ∧ s.manager.lineDelay = some 0 ∧
        ¬∃ l, (s.slots.get l).enabled = true ∧ (s.slots.get l).muted = false ∧
          ((s.slots.get l).cadence = 0 ∨ (s.manager.settings.mode = .lead ∧ s.manager.settings.leadSlot = l))) ∧
    (let s := lineMode .armed false false .off 0 true none none none
    s.manager.state = .armed ∧ s.manager.settings.mode = .line ∧ s.manager.settings.filter = .off ∧
        s.manager.settings.delay = 0 ∧ s.manager.lineDelay = none ∧ s.line.raw = s.line.filtered ∧
        (s.manager.settings.edge = .rising ↔ s.line.raw = false)) ∧
    (let s : State := { gathering noStatus with
        manager := { (gathering noStatus).manager with
          state := .armed, openRecord := none, period := some 0, fallback := some 0, cycle := 4294967295 } }
    s.resetActs = false ∧ s.manager.state = .armed ∧ s.manager.period = some 0 ∧ s.manager.fallback = some 0 ∧
        s.manager.cycle = 4294967295 ∧
        ∃ l, (s.slots.get l).enabled = true ∧ (s.slots.get l).muted = false ∧
          ((s.slots.get l).cadence = 0 ∨ (s.manager.settings.mode = .lead ∧ s.manager.settings.leadSlot = l))) := by decide

theorem test_witness_TriggerOpensCycle_expiry :
    (let s := lineMode .armed true false .f2 0 true none none (some 0)
    s.resetActs = false ∧ s.manager.state = .armed ∧ s.manager.settings.mode = .line ∧ s.manager.settings.delay = 0 ∧
        s.manager.lineDelay = none ∧ s.line.measuring = some 0 ∧ s.line.filtered = !s.line.raw ∧
        (s.manager.settings.edge = .rising ↔ s.line.raw = true)) := by decide

/-- LEAD mode with lead slot 0 enabled, in a manager state, and the FIFO of link 0 given. -/
def leadMode (m : ManagerState) (q : List FifoEntry) : State :=
  let s := gathering noStatus
  { (s.onReceiver 0 (fun r => { r with fifo := q })) with
    manager := { s.manager with
      state := m, openRecord := none, settings := { TimingSettings.powerOn with mode := .lead, fallback := 100 } } }

theorem test_witness_TriggerOpensCycle_lead :
    (let s := receiving (.header (frame 2)) [] true (leadMode .armed [])
    s.resetActs = false ∧ s.manager.state = .armed ∧ s.manager.settings.mode = .lead ∧ s.manager.settings.leadSlot = 0 ∧
        (s.slots.get 0).enabled = true ∧ (s.slots.get 0).muted = false ∧
        (s.receivers.get 0).decoder = .locked [] true ∧ (s.receivers.get 0).reception = .header (frame 2) ∧
        (frame 2).taken = 2 ∧ (frame 2).word0.extractLsb' 8 8 = 1 ∧ (frame 2).word0.extractLsb' 0 8 = (frame 2).tag ∧
        (32 : Word).toNat = (frame 2).slopeCount ∧ (s.receivers.get 0).fifo = [] ∧ s.expects 0 ∧ ¬ s.expects 1) ∧
    (let s := leadMode .armed [entry false 1]
    s.expects 0 ∧ (s.receivers.get 0).fifo = entry false 1 :: [] ∧ (entry false 1).attached = false) := by decide

/-- A state in CLOSING with a latch, a trigger mode and the FIFO of the lead slot's link. -/
def lateIn (c : Option LatchedCause) (m : TriggerMode) (q : List FifoEntry) : State :=
  let s := (inClosing .closed).onReceiver 0 (fun r => { r with fifo := q })
  { s with manager := { s.manager with latch := c, settings := { TimingSettings.powerOn with mode := m, fallback := 100 } } }

theorem test_witness_TriggerOpensCycle_boundary :
    ∀ p ∈ [(some LatchedCause.line, TriggerMode.line, ([] : List FifoEntry)), (some .timer, .timer, []),
        (none, .lead, [entry false 1]), (none, .lead, []), (none, .timer, [])],
      (let s := lateIn p.1 p.2.1 p.2.2
      s.resetActs = false ∧ s.command.working = some (working .closed) ∧
        s.manager.openRecord = some { openWith .closed noStatus with closing := some closing } ∧ s.loop.loop ≠ .idle ∧
        s.loop.request = none ∧ s.manager.held = none ∧ s.manager.latch = p.1 ∧ s.manager.settings.mode = p.2.1 ∧
        (s.slots.get s.manager.settings.leadSlot).muted = false ∧
        (s.receivers.get s.manager.settings.leadSlot).fifo = p.2.2) := by decide +kernel

theorem test_witness_DeadlineClosesCycle :
    (∀ st ∈ [AttachStatus.waiting, .arrived, .attached true false],
      (gathering (status0 st)).resetActs = false ∧ (gathering (status0 st)).manager.state = .gathering ∧
        (gathering (status0 st)).manager.openRecord = some (openWith .closed (status0 st)) ∧
        (gathering (status0 st)).manager.deadline = some 0) ∧
    (∀ q ∈ [[entry true 33, entry false 31], [entry true 1, entry false 33], [entry false 1], []],
      (let s := inOperation false 2 (receiving (.storing (frame 20)) [] true
          ((gathering (status0 (.attached false false))).onReceiver 0 (fun r => { r with fifo := q })))
      s.resetActs = false ∧ s.manager.openRecord = some (openWith .closed (status0 (.attached false false))) ∧
        (status0 (.attached false false)).get 0 = some (.attached false false) ∧ (s.receivers.get 0).fifo = q ∧
        s.engine.records.get 0 = some (attachment 2 .accumulating) ∧ (attachment 2 .accumulating).state ≠ .discarded ∧
        s.engine.inFlight = some (operation false) ∧ (operation false).slot = 0)) := by decide +kernel

/-- Slot 0 with an age and a state, its loss action TRIP, in GATHERING with a status. -/
def aged (n : Nat) (x : SlotState) (q : Quad (Option AttachStatus)) : State :=
  (gathering q).onSlot 0 (fun y => { y with age := n, state := x, policy := { y.policy with lossAction := .trip } })

theorem test_witness_SlotsAtDeadlineClose :
    (∀ p ∈ [(2, SlotState.holding, status0 .waiting), (3, .holding, status0 .waiting), (0, .active, status0 .arrived),
        (0, .active, noStatus)],
        (aged p.1 p.2.1 p.2.2).resetActs = false ∧ (aged p.1 p.2.1 p.2.2).manager.state = .gathering ∧
        (aged p.1 p.2.1 p.2.2).manager.openRecord = some (openWith .closed p.2.2) ∧
        (aged p.1 p.2.1 p.2.2).manager.deadline = some 0 ∧ (aged p.1 p.2.1 p.2.2).slots.q0.enabled = true ∧
        (aged p.1 p.2.1 p.2.2).slots.q0.muted = false ∧ (aged p.1 p.2.1 p.2.2).slots.q0.age ≤ 15 ∧
        (aged p.1 p.2.1 p.2.2).slots.q0.state = p.2.1) ∧
      (aged 2 .holding (status0 .waiting)).slots.q0.age + 1 ≤ (aged 2 .holding (status0 .waiting)).slots.q0.policy.holdLimit ∧
      (aged 3 .holding (status0 .waiting)).slots.q0.policy.holdLimit < (aged 3 .holding (status0 .waiting)).slots.q0.age + 1 ∧
      (aged 3 .holding (status0 .waiting)).slots.q0.policy.lossAction = .trip ∧ (opened .closed).loop = .closed := by decide

/-- The other statuses of a miss, the slot already LOST at its largest age, the muted, LOST and disabled slots, and a trip
already pending. -/
theorem test_witness_SlotsAtDeadlineClose_misses :
    (∀ st ∈ [AttachStatus.waiting, .attached true false, .abandoned], st ≠ .arrived ∧
        (aged 16 .lost (status0 st)).slots.q0.state = .lost ∧ (aged 16 .lost (status0 st)).slots.q0.age = 16 ∧
        (aged 15 .holding (status0 st)).slots.q0.state = .holding ∧
        (openWith .closed (status0 st)).statuses.get 0 = some st ∧
        (((aged 3 .muted (status0 st)).onSlot 0 (fun y => { y with muted := true })).slots.get 0).muted = true) ∧
      (aged 16 .lost (status0 .arrived)).slots.q0.state = .lost ∧ (aged 0 .active noStatus).slots.q1.enabled = false ∧
      ((aged 3 .holding (status0 .waiting)).ports.get .A).queue.length ≤ 12 := by decide

/-- The slots that enter LOST with loss action TRIP, as the statement lists them. -/
def tripping (s : State) (q : Quad (Option AttachStatus)) : List LinkId :=
  [(0 : LinkId), 1, 2, 3].filter (fun k => decide ((s.slots.get k).enabled = true ∧ (s.slots.get k).muted = false ∧
    (s.slots.get k).state ≠ .lost ∧ q.get k ≠ none ∧ q.get k ≠ some .arrived ∧
    (s.slots.get k).policy.holdLimit < min ((s.slots.get k).age + 1) 16 ∧ (s.slots.get k).policy.lossAction = .trip))

/-- The slots that enter LOST, none, one and all four, in a cycle recorded CLOSED, with the trip and the request given. -/
def losing (n : Nat) (t : Option PendingTrip) (r : Option LoopRequest) : State :=
  let s := aged n .holding (Quad.fill (some .waiting))
  { s with slots := Quad.fill s.slots.q0, loop := { s.loop with trip := t, request := r } }

theorem test_witness_SlotsAtDeadlineClose_trips :
    tripping (losing 2 none none) (Quad.fill (some .waiting)) = [] ∧
      tripping (aged 3 .holding (status0 .waiting)) (status0 .waiting) = 0 :: [] ∧
      tripping (losing 3 none none) (Quad.fill (some .waiting)) = 0 :: [1, 2, 3] ∧
      (opened .closed).loop = .closed ∧ (opened .frozen).loop ≠ .closed ∧
      (losing 3 none (some { target := .stop, port := .B })).loop.trip = none ∧
      (losing 3 none (some { target := .stop, port := .B })).loop.request = some { target := .stop, port := .B } ∧
      ∀ n ∈ [251, 252, 255], (losing 3 (some { cause := .board 1, additional := n }) none).loop.trip =
        some { cause := .board 1, additional := n } ∧ n ≤ 255 := by decide

theorem test_witness_UnlockedSymbolsCountToLock :
    ∀ n ∈ [62, 63], ((State.reset.onReceiver 0 (fun r => { r with decoder := .unlocked n })).receivers.get 0).decoder =
        .unlocked n ∧ (n + 1 < 64 ∨ 64 ≤ n + 1) := by decide

/-- Port A with `n` events in its queue and a lost count. -/
def queued (n : Nat) (lost : Counter) : State :=
  State.reset.onPort .A (fun q =>
    { q with queue := List.replicate n { subject := .linkChange 0 .up, cycle := 1, time := 1 }, lost := lost })

theorem test_witness_UnlockedSymbolsCountToLock_events :
    ((queued 15 0).ports.get .A).queue.length < 16 ∧ 16 ≤ ((queued 16 0).ports.get .A).queue.length ∧
      ((queued 16 4294967295).ports.get .A).lost = 4294967295 ∧ ((queued 16 4294967294).ports.get .A).lost ≠ 4294967295 := by
  decide

/-- A window with three invalid marks that stay in it, and one with the oldest of them about to leave it. -/
def threeMarks : List Bool := [true, true, true]

theorem test_witness_LockedSymbolsOutsideFrame :
    (∀ r ∈ [Reception.between, .draining],
        (receiving r [true, true] false State.reset).resetActs = false ∧
        ((receiving r [true, true] false State.reset).receivers.get 0).decoder = .locked [true, true] false ∧
        ((receiving r [true, true] false State.reset).receivers.get 0).reception = r) ∧
      ((true :: [true, true]).take 16).count true < 4 := by decide

theorem test_witness_SymbolsInHeader :
    (∀ n ∈ [0, 1, 2], ∀ e ∈ [true, false],
        (let s := (receiving (.header (frame n)) [] true (gathering noStatus)).onSlot 0 (fun x => { x with enabled := e })
        s.resetActs = false ∧ (s.receivers.get 0).decoder = .locked [] true ∧
          (s.receivers.get 0).reception = .header (frame n) ∧ ((frame n).taken < 2 ↔ n ≠ 2) ∧ (s.slots.get 0).enabled = e)) ∧
      ((true :: ([] : List Bool)).take 16).count true < 4 := by decide

theorem test_witness_HeaderChecks :
    (∀ s ∈ [State.reset, inLoop .opened .armed, gathering (status0 .waiting)],
        (receiving (.header (frame 2)) [] true s).resetActs = false ∧
        ((receiving (.header (frame 2)) [] true s).receivers.get 0).decoder = .locked [] true ∧
        ((receiving (.header (frame 2)) [] true s).receivers.get 0).reception = .header (frame 2)) ∧
      (frame 2).taken = 2 ∧ (frame 2).word0.extractLsb' 8 8 = 1 ∧ (frame 2).word0.extractLsb' 0 8 = (frame 2).tag ∧
      (32 : Word).toNat = (frame 2).slopeCount ∧ (31 : Word).toNat ≠ (frame 2).slopeCount ∧
      State.reset.manager.state = .idle ∧ (inLoop .opened .armed).manager.state = .armed ∧
      (inLoop .opened .armed).manager.settings.mode ≠ .lead ∧
      ((inLoop .opened .armed).slots.get 0).policy.outOfCycle = .queue ∧
      (((inLoop .opened .armed).onSlot 0 (fun x => { x with policy := { x.policy with outOfCycle := .drop } })).slots.get
        0).policy.outOfCycle = .drop ∧
      (gathering (status0 .waiting)).manager.state = .gathering ∧
      (openWith .closed (status0 .waiting)).statuses.get 0 = some .waiting ∧
      ((gathering (status0 .waiting)).receivers.get 0).fifo = [] := by decide

theorem test_witness_HeaderChecks_kinds :
    (0x0000 : Word).extractLsb' 8 8 ≠ 1 ∧ (0x0000 : Word).extractLsb' 8 8 ≠ 2 ∧ (0x0300 : Word).extractLsb' 8 8 ≠ 1 ∧
      (0x0300 : Word).extractLsb' 8 8 ≠ 2 ∧ ((0x0200 : Word).extractLsb' 8 8 = 2 ∧ (0x0200 : Word).extractLsb' 0 8 = (frame 2).tag) ∧
      ((0 : Word) ≠ 1 ∧ (0 : Word) ≠ 2) ∧ ((3 : Word) ≠ 1 ∧ (3 : Word) ≠ 2) ∧ (0x0101 : Word).extractLsb' 0 8 ≠ (frame 2).tag := by decide

/-- Where an accepted DATA frame on link 0 falls to the out-of-cycle policy: CLOSING; ARMED outside LEAD mode, with the lead
slot muted, and with another lead slot that waits; GATHERING behind an attached frame, and for a slot that is not WAITING. -/
def outOfCycle : List State :=
  [inClosing .closed, inLoop .opened .armed, (leadMode .armed []).onSlot 0 (fun x => { x with muted := true }),
    (leadMode .armed []).onManager (fun m => { m with settings := { m.settings with leadSlot := 1 } }),
    (gathering (status0 (.attached false false))).onReceiver 0 (fun r => { r with fifo := [entry true 1] }),
    gathering (status0 .abandoned)]

theorem test_witness_HeaderChecks_outOfCycle :
    ∀ s ∈ outOfCycle, ∀ p ∈ [OutOfCycle.queue, .drop],
      (let t := (receiving (.header (frame 2)) [] true s).onSlot 0 (fun x =>
          { x with policy := { x.policy with outOfCycle := p } })
      t.resetActs = false ∧ (t.receivers.get 0).decoder = .locked [] true ∧
        (t.receivers.get 0).reception = .header (frame 2) ∧ (t.slots.get 0).policy.outOfCycle = p ∧
        (t.receivers.get 0).flow ≠ .hold ∧
        (t.manager.state = .closing ∨
          (t.manager.state = .armed ∧ (t.manager.settings.mode ≠ .lead ∨
            (t.slots.get t.manager.settings.leadSlot).muted = true ∨
            (t.manager.settings.leadSlot ≠ 0 ∧ (t.receivers.get t.manager.settings.leadSlot).fifo = []))) ∨
          (t.manager.state = .gathering ∧ (t.receivers.get 0).fifo = entry true 1 :: [] ∧ (entry true 1).attached = true) ∨
          (t.manager.state = .gathering ∧ (t.receivers.get 0).fifo = [] ∧
            t.manager.openRecord = some (openWith .closed (status0 .abandoned)) ∧
            (openWith .closed (status0 .abandoned)).statuses.get 0 ≠ some .waiting))) := by decide

/-- A DROP policy with the flow HOLD behind more than 32 groups. -/
theorem test_witness_HeaderChecks_hold :
    (let s := (inClosing .closed).onReceiver 0 (fun r => { r with flow := .hold, fifo := [entry false 33] })
    (s.receivers.get 0).flow = .hold ∧ 32 < fifoGroups (s.receivers.get 0).fifo) := by decide

/-- A NOTICE frame with word 2 `w`, received up to its CRC word. -/
def notice (w : Word) : RxFrame := { frame 4 with word0 := 0x0200, word2 := w, crc := 5, crcWord := 5 }

/-- A state whose link 0 is STORING a frame with `n` slopes of the present group, with `g` groups in its FIFO. -/
def storing (n g : Nat) (busy : Bool) : State :=
  let s := receiving (.storing { frame (3 + n) with slopes := List.replicate n 1, slopeCount := 64 }) [] true State.reset
  { (s.onReceiver 0 (fun r => { r with fifo := [entry true g] })) with
    engine := { s.engine with
      inFlight := if busy then some (operation false) else none
      records := { s.engine.records with q0 := some (attachment 2 .accumulating) } } }

theorem test_witness_SlopesStoredInGroups :
    ∀ p ∈ [(30, 0), (31, 47), (31, 63), (31, 64)],
      (storing p.1 p.2 true).resetActs = false ∧ ((storing p.1 p.2 true).receivers.get 0).decoder = .locked [] true ∧
      ((storing p.1 p.2 true).receivers.get 0).reception =
        .storing { frame (3 + p.1) with slopes := List.replicate p.1 1, slopeCount := 64 } ∧
      3 + p.1 + 1 < (64 : Nat) + 4 ∧ (storing p.1 p.2 true).engine.inFlight ≠ none ∧
      ((storing p.1 p.2 true).receivers.get 0).fifo = [] ++ [entry true p.2] ∧
      fifoGroups ((storing p.1 p.2 true).receivers.get 0).fifo = p.2 ∧
      { frame (3 + p.1) with slopes := List.replicate p.1 1, slopeCount := 64 }.taken + 1 <
        { frame (3 + p.1) with slopes := List.replicate p.1 1, slopeCount := 64 }.expected := by decide

/-- Words in DISCARDING before the CRC word, the CRC word in DISCARDING and in STORING, and FILL in both. -/
theorem test_witness_SlopesStoredInGroups_others :
    (∀ n ∈ [3, 34], (frame n).taken + 1 < (frame n).expected) ∧ (frame 35).taken + 1 = (frame 35).expected ∧
      ({ notice 1 with taken := 3 } : RxFrame).taken + 1 = ({ notice 1 with taken := 3 } : RxFrame).expected ∧
      (∀ r ∈ [Reception.discarding (frame 3), .discarding (frame 34), .discarding (frame 35), .storing (frame 35),
          .discarding { notice 1 with taken := 3 }],
        (receiving r [] true State.reset).resetActs = false ∧
          ((receiving r [] true State.reset).receivers.get 0).decoder = .locked [] true ∧
          ((receiving r [] true State.reset).receivers.get 0).reception = r) := by decide

/-- The 65th group, of a queued frame and of an attached one in GATHERING. -/
theorem test_witness_SlopesStoredInGroups_overrun :
    (let s := (storing 31 64 true).onReceiver 0 (fun r => { r with fifo := [entry true 32, entry false 32] })
    64 ≤ fifoGroups (s.receivers.get 0).fifo ∧ (s.receivers.get 0).fifo = [entry true 32] ++ [entry false 32] ∧
        (entry false 32).attached = false ∧ s.manager.state ≠ .gathering ∧ s.manager.state ≠ .armed ∧
        s.engine.inFlight ≠ none) ∧
    (let s := inOperation false 70 { gathering (status0 (.attached false false)) with receivers := (storing 31 64 true).receivers }
    64 ≤ fifoGroups (s.receivers.get 0).fifo ∧ (s.receivers.get 0).fifo = [] ++ [entry true 64] ∧
        (entry true 64).attached = true ∧ s.manager.state = .gathering ∧
        s.manager.openRecord = some (openWith .closed (status0 (.attached false false))) ∧
        (openWith .closed (status0 (.attached false false))).statuses.get 0 = some (.attached false false) ∧
        s.engine.records.get 0 = some (attachment 70 .accumulating) ∧ (attachment 70 .accumulating).state ≠ .discarded ∧
        s.engine.inFlight = some (operation false) ∧ (operation false).slot = 0) := by decide

theorem test_witness_CompletedGroupIsTaken :
    (storing 31 0 false).resetActs = false ∧ ((storing 31 0 false).receivers.get 0).decoder = .locked [] true ∧
      (storing 31 0 false).engine.inFlight = none ∧ ((storing 31 0 false).receivers.get 0).fifo = [entry true 0] ∧
      (entry true 0).attached = true ∧ (entry true 0).verified = false ∧ (entry true 0).groups = [] ∧
      (storing 31 0 false).engine.records.get 0 = some (attachment 2 .accumulating) ∧
      (attachment 2 .accumulating).state = .accumulating ∧ (List.replicate 31 (1 : Word)).length + 1 = 32 ∧
      ∀ k : LinkId, k ≠ 0 → isCandidate (storing 31 0 false) k = false := by decide

/-- Link 0 at the end of a NOTICE frame, its slot muted and enabled as given. -/
def noticing (w : Word) (g m e : Bool) (s : State) : State :=
  (receiving (.discarding (notice w)) [] g s).onSlot 0 (fun x => { x with muted := m, enabled := e })

theorem test_witness_NoticesMuteAndUnmute :
    (∀ w g m e, (noticing w g m e (gathering noStatus)).resetActs = false ∧
      ((noticing w g m e (gathering noStatus)).receivers.get 0).decoder = .locked [] g ∧
      ((noticing w g m e (gathering noStatus)).receivers.get 0).reception = .discarding (notice w) ∧
      ((noticing w g m e (gathering noStatus)).slots.get 0).enabled = e ∧
      ((noticing w g m e (gathering noStatus)).slots.get 0).muted = m ∧
      (noticing w g m e (gathering noStatus)).manager.state = .gathering ∧ (notice w).word0 = 0x0200 ∧
      (notice w).taken = (notice w).expected ∧ (notice w).crc = (notice w).crcWord ∧ (notice w).word2 = w) ∧
      (0x0200 : Word).extractLsb' 8 8 = 2 :=
  ⟨fun _ _ _ _ => ⟨rfl, rfl, rfl, rfl, rfl, rfl, rfl, by simp [notice, frame, RxFrame.expected, RxFrame.isData, RxFrame.kind], rfl, rfl⟩, by decide⟩

theorem test_witness_NoticesMuteAndUnmute_lead :
    (let s := noticing 1 true true true (leadMode .armed [entry false 1])
    s.manager.state = .armed ∧ s.manager.settings.mode = .lead ∧ s.manager.settings.leadSlot = 0 ∧
        (s.slots.get 0).muted = true ∧ (s.receivers.get 0).fifo ≠ []) := by
  exact ⟨rfl, rfl, rfl, rfl, fun h => by cases h⟩

/-- A DATA frame received up to its CRC word. -/
def dataFrame : RxFrame := { frame 36 with crc := 5, crcWord := 5 }

/-- Link 0 receiving a frame, with its FIFO, its engine record and an operation in flight given. -/
def ending (r : Reception) (q : List FifoEntry) (busy : Bool) (s : State) : State :=
  let t := (receiving r [] true s).onReceiver 0 (fun x => { x with fifo := q })
  { t with engine := { t.engine with inFlight := if busy then some (operation false) else none } }

theorem test_witness_NoticesMuteAndUnmute_data :
    dataFrame.taken = dataFrame.expected ∧ dataFrame.crc = dataFrame.crcWord ∧ dataFrame.word0.extractLsb' 8 8 = 1 ∧
      ((ending (.discarding dataFrame) [] false State.reset).receivers.get 0).reception = .discarding dataFrame ∧
      (let s := ending (.storing dataFrame) [entry true 1, entry false 1] true State.reset
      (s.receivers.get 0).reception = .storing dataFrame ∧ (s.receivers.get 0).fifo = [entry true 1] ++ [entry false 1] ∧
        (entry false 1).attached = false) ∧
      (∀ g ∈ [true, false], ∀ n ∈ [0, 1], ∀ b ∈ [true, false],
        (let s := ending (.storing dataFrame) [entry true n] b (gathering (status0 (.attached false g)))
        (s.receivers.get 0).fifo = [entry true n] ∧ (entry true n).attached = true ∧ s.manager.state = .gathering ∧
          s.manager.openRecord = some (openWith .closed (status0 (.attached false g))) ∧
          (status0 (.attached false g)).get 0 = some (.attached false g) ∧
          (s.engine.inFlight ≠ none ∨ ∀ k : LinkId, isCandidate s k = false) ∧
          (∀ k : LinkId, k ≠ 0 → (status0 (.attached false g)).get k = none))) ∧
      ({ status0 (.attached false true) with q1 := some .waiting } : Quad (Option AttachStatus)).get 1 ≠ none := by decide +kernel

/-- The states below in which an entry leaves the FIFO of link 0 without an effect on the cycle or the engine. -/
theorem test_witness_settledAt :
    ∀ p ∈ [(Reception.storing dataFrame, 1), (.storing { dataFrame with crcWord := 6 }, 33), (.storing (frame 5), 32)],
      (ending p.1 [entry true p.2, entry false 1] true State.reset).settledAt 0 := by
  intro p h
  simp only [List.mem_cons, List.not_mem_nil, or_false] at h
  rcases h with rfl | rfl | rfl <;> exact ⟨Or.inl (by decide), Or.inl (by decide), Or.inl (by decide)⟩

/-- A frame received up to its CRC word, which differs from the CRC. -/
def badFrame : RxFrame := { dataFrame with crcWord := 6 }

theorem test_witness_CrcMismatchAbandons :
    (let s : State := { (receiving (.storing badFrame) [] false (gathering (status0 (.attached false false)))).onReceiver 0
          (fun r => { r with fifo := [entry true 1] }) with
        engine := { State.reset.engine with records := { State.reset.engine.records with q0 := some (attachment 1 .accumulating) } } }
    s.resetActs = false ∧ (s.receivers.get 0).decoder = .locked [] false ∧
        (s.receivers.get 0).reception = .storing badFrame ∧ badFrame.taken = badFrame.expected ∧
        badFrame.crc ≠ badFrame.crcWord ∧ (s.receivers.get 0).fifo = [] ++ [entry true 1] ∧
        (entry true 1).attached = true ∧ s.manager.state = .gathering ∧
        s.manager.openRecord = some (openWith .closed (status0 (.attached false false))) ∧
        (status0 (.attached false false)).get 0 = some (.attached false false) ∧
        s.engine.records.get 0 = some (attachment 1 .accumulating) ∧ (attachment 1 .accumulating).state ≠ .discarded) := by decide

theorem test_witness_CrcMismatchAbandons_framing :
    badFrame.taken = badFrame.expected ∧ (frame 35).taken ≠ (frame 35).expected ∧
      ((true :: [true, true]).take 16).count true < 4 ∧
      (∀ r ∈ [Reception.discarding badFrame, .storing badFrame, .storing (frame 35)],
        ((receiving r [true, true] true State.reset).receivers.get 0).reception = r ∧
        ((receiving r [true, true] true State.reset).receivers.get 0).decoder = .locked [true, true] true) ∧
      (let s := ending (.storing badFrame) [entry true 33, entry false 1] true State.reset
      (s.receivers.get 0).fifo = [entry true 33] ++ [entry false 1] ∧ (entry false 1).attached = false) := by
  decide

theorem test_witness_FourthInvalidLosesLock :
    (∀ r ∈ [Reception.between, .draining, .header (frame 1), .discarding (frame 5), .storing (frame 5)],
      (receiving r threeMarks true State.reset).resetActs = false ∧
        ((receiving r threeMarks true State.reset).receivers.get 0).decoder = .locked threeMarks true ∧
        4 ≤ ((true :: threeMarks).take 16).count true ∧
        ((receiving r threeMarks true State.reset).receivers.get 0).reception = r) ∧
      (let s := ending (.storing (frame 5)) [entry true 32, entry false 1] true State.reset
      (s.receivers.get 0).fifo = [entry true 32] ++ [entry false 1] ∧ (entry false 1).attached = false) ∧
      (let s := inOperation false 1 (ending (.storing (frame 5)) [entry true 1] false (gathering (status0 (.attached false false))))
      (s.receivers.get 0).fifo = [] ++ [entry true 1] ∧ (entry true 1).attached = true ∧ s.manager.state = .gathering ∧
        s.manager.openRecord = some (openWith .closed (status0 (.attached false false))) ∧
        s.engine.records.get 0 = some (attachment 1 .accumulating) ∧ (attachment 1 .accumulating).state ≠ .discarded ∧
        s.engine.inFlight = some (operation false) ∧ (operation false).slot = 0) := by decide

theorem test_witness_GroupOperationCommits :
    ∀ v ∈ [true, false],
      (inOperation v 2 State.reset).resetActs = false ∧ (inOperation v 2 State.reset).memoryWf = true ∧
        (inOperation v 2 State.reset).engine.inFlight = some (operation v) ∧ (operation v).isVoid = v ∧
        (∀ l : LinkId, isCandidate (inOperation v 2 State.reset) l = false) ∧
        (inOperation v 2 State.reset).engine.records.get (operation v).slot = some (attachment 2 .accumulating) ∧
        (attachment 2 .accumulating).state = .accumulating ∧
        (attachment 2 .accumulating).done + 1 ≠ (attachment 2 .accumulating).groups := by decide

/-- The last-group report that does not close the cycle: of a frame not verified, of one verified with another slot
outstanding, and for a slot that is not ATTACHED. -/
theorem test_witness_GroupOperationCommits_lastGroup :
    ∀ q ∈ [status0 (.attached false false), { status0 (.attached true false) with q1 := some .waiting }, status0 .abandoned,
        noStatus],
      (let s := inOperation false 1 (gathering q)
      s.resetActs = false ∧ s.memoryWf = true ∧ s.engine.inFlight = some (operation false) ∧
        (operation false).isVoid = false ∧ s.engine.records.get (operation false).slot = some (attachment 1 .accumulating) ∧
        (attachment 1 .accumulating).done + 1 = (attachment 1 .accumulating).groups ∧ s.manager.state = .gathering ∧
        s.manager.openRecord = some (openWith .closed q) ∧
        (q.get 0 = some (.attached false false) ∨
          (q.get 0 = some (.attached true false) ∧ q.get 1 ≠ none ∧ q.get 1 ≠ some .arrived) ∨
          q.get 0 = some .abandoned ∨ q.get 0 = none)) := by decide +kernel

/-- The engine after an operation with groups of slots 1 and 2 waiting, its pointer given; slot 1 has the last group of a
verified frame, and another frame behind it. -/
def waiting (pointer : LinkId) : State :=
  let s := ((gathering (Quad.fill (some (.attached true false)))).onReceiver 1 (fun r =>
    { r with fifo := [{ entry true 1 with verified := true }, entry false 33], flow := .hold })).onReceiver 2 (fun r =>
    { r with fifo := [entry true 2] })
  { s with engine := { s.engine with
      pointer := pointer
      records := Quad.fill (some (attachment 2 .accumulating)) } }

theorem test_witness_GroupOperationCommits_choice :
    ∀ p ∈ [((0 : LinkId), (1 : LinkId), (1 : LinkId)), (1, 0, 1), (2, 0, 2), (3, 2, 1)],
      p.2.2 = (waiting p.1).engine.pointer + p.2.1 ∧ isCandidate (waiting p.1) p.2.2 = true ∧
        (∀ m, m < p.2.1 → isCandidate (waiting p.1) ((waiting p.1).engine.pointer + m) = false) ∧
        (∃ e rest g gs, ((waiting p.1).receivers.get p.2.2).fifo = e :: rest ∧ e.groups = g :: gs ∧ g.length = 32) ∧
        (openWith .closed (Quad.fill (some (.attached true false)))).statuses.get p.2.2 ≠ some .waiting := by
  intro p h
  simp only [List.mem_cons, List.not_mem_nil, or_false] at h
  rcases h with rfl | rfl | rfl | rfl <;>
    exact ⟨by decide, by decide, by decide, ⟨_, _, _, _, rfl, rfl, rfl⟩, by decide⟩

theorem test_witness_LastArrivalClosesCycle :
    (let s := inOperation false 1 (gathering (status0 (.attached true false)))
    s.resetActs = false ∧ s.engine.inFlight = some (operation false) ∧ (operation false).isVoid = false ∧
        s.engine.records.get (operation false).slot = some (attachment 1 .accumulating) ∧
        (attachment 1 .accumulating).done + 1 = (attachment 1 .accumulating).groups ∧ s.manager.state = .gathering ∧
        s.manager.openRecord = some (openWith .closed (status0 (.attached true false))) ∧
        (status0 (.attached true false)).get (operation false).slot = some (.attached true false) ∧
        ∀ l : LinkId, l ≠ (operation false).slot → (status0 (.attached true false)).get l = none ∨
          (status0 (.attached true false)).get l = some .arrived) := by decide

/-- Every clause of `State.closesComplete` about a slot has a slot. -/
theorem test_witness_LastArrivalClosesCycle_slots :
    (let q : Quad (Option AttachStatus) := { status0 (.attached true false) with q1 := some .arrived }
    lastArrival.manager.openRecord = some (openWith .closed q) ∧ lastArrival.manager.state = .gathering ∧
      q.get (operation false).slot = some (.attached true false) ∧
      (∀ l : LinkId, l ≠ 0 → q.get l = none ∨ q.get l = some .arrived) ∧
      ((lastArrival.slots.get 0).enabled = true ∧ (lastArrival.slots.get 0).muted = false ∧
        (lastArrival.slots.get 0).state = .lost) ∧
      ((lastArrival.slots.get 1).enabled = true ∧ (lastArrival.slots.get 1).muted = true ∧ q.get 1 = some .arrived) ∧
      ((lastArrival.slots.get 2).muted = true ∧ q.get 2 = none) ∧
      (lastArrival.slots.get 3).enabled = true ∧ (lastArrival.slots.get 3).muted = false ∧ q.get 3 = none) := by decide

theorem test_witness_CloseComputationCommits :
    (∀ l ∈ [LoopState.opened, .closed, .frozen],
        (inClosing l).resetActs = false ∧ (inClosing l).command.working = some (working l) ∧
        (inClosing l).manager.openRecord = some { openWith l noStatus with closing := some closing } ∧
        (inClosing l).loop.loop ≠ .idle ∧ (inClosing l).loop.trip = none ∧ (inClosing l).loop.request = none ∧
        (inClosing l).mirror.activity = .idle) ∧
      (∀ v ∈ [none, some { values := [], cycle := 4, count := 256 }],
        ({ linkIn (writeout 0 0) .sending (inClosing .closed) with
          mirror := { (linkIn (writeout 0 0) .sending (inClosing .closed)).mirror with pendingVector := v } } :
          State).mirror.activity ≠ .idle) := by decide

/-- A record without a probe position, and one with the last position and the largest ages. -/
theorem test_witness_CycleRecord_laidOut :
    (∀ p, closing.probePosition = some p → p < 8) ∧ (∀ l, closing.ages.get l ≤ 16) ∧
      (∀ p, ({ closing with probePosition := some 7, ages := Quad.fill 16 } : CloseInfo).probePosition = some p → p < 8) ∧
      ∀ l, ({ closing with probePosition := some 7, ages := Quad.fill 16 } : CloseInfo).ages.get l ≤ 16 := by
  refine ⟨fun p h => ?_, by decide, fun p h => ?_, by decide⟩
  · cases h
  · cases h; decide

/-- The offload window before and at its last close, and the sums of modes enabled and not. -/
theorem test_witness_CloseComputationCommits_offload :
    ∀ n ∈ [6, 7],
      (let s : State := { inClosing .closed with
        offload := { State.reset.offload with settings := { window := 8, mask := 5 }, count := n, fresh := true } }
      s.offload.settings.window ≠ 0 ∧ (s.offload.count + 1 < s.offload.settings.window ∨
        s.offload.settings.window ≤ s.offload.count + 1) ∧ (s.ports.get .A).queue.length < 16 ∧
        s.offload.settings.mask.getLsbD 2 = true ∧ s.offload.settings.mask.getLsbD 3 = false) := by decide

/-- Each capture pattern at positions that capture and that do not, at the last position of its period too; a record that
just fits the telemetry FIFO and one that does not. -/
theorem test_witness_CloseComputationCommits_capture :
    (∀ k ∈ [(CapturePattern.off, 0), (.every 3, 0), (.every 3, 2), (.burst 2 4, 1), (.burst 2 4, 2), (.burst 2 4, 3),
        (.mask 32 0x80000000, 31), (.mask 32 0x80000000, 30)],
      (let s : State := { inClosing .closed with
        capture := { State.reset.capture with
          settings := { pattern := k.1, drive := true, residual := true }, position := k.2 } }
      s.capture.settings.pattern = k.1 ∧ s.capture.position = k.2)) ∧
      (0x80000000 : BitVec 32).getLsbD 31 = true ∧ (0x80000000 : BitVec 32).getLsbD 30 = false ∧
      (∀ n ∈ [65512, 65513], ([List.replicate n (0 : Word)].map List.length).sum = n) ∧
      65512 + 24 ≤ 65536 ∧ 65536 < 65513 + 24 := by
  refine ⟨by decide, by decide, by decide, fun n _ => by simp, by decide, by decide⟩

/-- Held settings of every block, with a change of the trigger mode in CLOSING. -/
theorem test_witness_CloseComputationCommits_held :
    (let s : State := { lateIn (some .line) .line [] with
      slots := (inClosing .closed).slots.map (fun x =>
        { x with heldPolicy := some { x.policy with divisor := 16, phase := 15, holdLimit := 15 } })
      probe := { State.reset.probe with held := some (.on 4) }
      manager := { (lateIn (some .line) .line []).manager with
        held := some { TimingSettings.powerOn with mode := .timer, period := 100 }, lineDelay := some 1 } }
    s.manager.state = .closing ∧ s.manager.held = some { TimingSettings.powerOn with mode := .timer, period := 100 } ∧
      ({ TimingSettings.powerOn with mode := .timer, period := 100 } : TimingSettings).mode ≠ s.manager.settings.mode ∧
      s.line.measuring = none ∧ s.loop.loop ≠ .idle ∧ s.loop.request = none ∧ s.manager.latch ≠ none ∧
      (s.slots.get 3).heldPolicy ≠ none ∧ s.probe.held ≠ none) := by decide

theorem test_witness_BoundaryTakesTripOrRequest :
    (let s : State := { inClosing .closed with
        loop := { (inClosing .closed).loop with trip := some { cause := .slot 0, additional := 0 } } }
    s.loop.trip = some { cause := .slot 0, additional := 0 } ∧ s.loop.loop = .closed ∧ s.loop.loop ≠ .idle) ∧
      ∀ g ∈ [RequestTarget.close, .freeze, .opn, .stop],
        ({ inClosing .closed with loop := { (inClosing .closed).loop with request := some { target := g, port := .B } } } :
          State).loop.request = some { target := g, port := .B } := by decide

/-- The offload unit off, before the last close of a window, and at it. -/
theorem test_witness_BoundaryTakesTripOrRequest_ready :
    ∀ p ∈ [(0, 0, false), (2, 0, false), (2, 1, true)],
      (let s : State := { inClosing .closed with offload := { State.reset.offload with
        settings := { window := p.1, mask := 1 }, count := p.2.1 } }
      s.resetActs = false ∧ s.command.working = some (working .closed) ∧ s.loop.loop ≠ .idle ∧
        (p.2.2 = true ↔ s.offload.settings.window ≠ 0 ∧ s.offload.settings.window ≤ s.offload.count + 1)) := by decide

theorem test_witness_BoundaryTakesApply :
    (let s : State := { inClosing .opened with
        stores := { State.reset.stores with pendingApply := some { selection := 0x104, port := .A } } }
    s.resetActs = false ∧ s.command.working = some (working .opened) ∧
        s.stores.pendingApply = some { selection := 0x104, port := .A } ∧
        (0x104 : BitVec 9).getLsbD StoreId.offsets.number = true ∧ (0x104 : BitVec 9).getLsbD StoreId.offloadvec.number = true ∧
        (0x104 : BitVec 9).getLsbD StoreId.matrix.number = false ∧ ∀ r, s.loop.request = some r → r.port ≠ .A) := by
  refine ⟨rfl, rfl, rfl, by decide, by decide, by decide, ?_⟩
  intro r h
  cases h

theorem test_witness_FinalDriveWithinLimits :
    127 < (working .closed).count ∧ (working .closed).count ≤ 128 ∧
      (storeWord .limits (working .closed).limits (2 * 127)).toInt ≤ (storeWord .limits (working .closed).limits (2 * 127 + 1)).toInt ∧
      (storeWord .limits { working .closed with limits := [(254, 100), (255, 99)] }.limits (2 * 127 + 1)).toInt <
        (storeWord .limits { working .closed with limits := [(254, 100), (255, 99)] }.limits (2 * 127)).toInt := by decide

theorem test_witness_FinalDriveWithinLimits_entries :
    ((List.range (min (storeWord .neighbours [(0, 2), (1, 5), (2, 6), (3, 4), (4, 5), (5, 128)] 0).toNat 2048)).map (fun k =>
        ({ first := (storeWord .neighbours [(0, 2), (1, 5), (2, 6), (3, 4), (4, 5), (5, 128)] (3 * k + 1)).toNat,
           second := (storeWord .neighbours [(0, 2), (1, 5), (2, 6), (3, 4), (4, 5), (5, 128)] (3 * k + 2)).toNat,
           limit := (storeWord .neighbours [(0, 2), (1, 5), (2, 6), (3, 4), (4, 5), (5, 128)] (3 * k + 3)).toNat } :
          NeighbourEntry))).filter (fun e => decide (e.first ≠ e.second ∧ e.first < 128 ∧ e.second < 128)) = [⟨5, 6, 4⟩] := by decide +kernel

theorem test_witness_CloseStagesWithoutNeighbours :
    17 < worked.count ∧ storeWord .neighbours worked.neighbours 0 = 0 ∧
      2 = min (storeWord .groupmap worked.groupmap 17).toNat 7 ∧
      2457600 = (links.map (fun l => if worked.selections.get l = .fresh ∨ worked.selections.get l = .held then
        ((worked.contributions.get l).at 17).toInt else 0)).sum ∧
      worked.loop = .closed ∧ (working .frozen).loop = .frozen ∧ (working .opened).loop = .opened ∧
      7 = min (storeWord .groupmap [(17, 8)] 17).toNat 7 := by decide

theorem test_witness_IntegratorReproducesDrive :
    (∀ l ∈ [LoopState.closed, .frozen, .opened], 127 < (working l).count ∧ (working l).loop = l ∧
        7 = min (storeWord .groupmap [(127, 7)] 127).toNat 7) ∧
      17 < worked.count ∧ worked.loop = .closed ∧ 2 = min (storeWord .groupmap worked.groupmap 17).toNat 7 ∧
      2457600 = ([(0 : LinkId), 1, 2, 3].map (fun l => if worked.selections.get l = .fresh ∨ worked.selections.get l = .held
        then ((worked.contributions.get l).at 17).toInt else 0)).sum := by decide

theorem test_witness_NeighbourEntrySplitsExcess :
    0 < ([10, -1] : List Int).length ∧ 1 < ([10, -1] : List Int).length ∧
      ([10, -1] : List Int).getD 1 0 ≤ ([10, -1] : List Int).getD 0 0 ∧ ([4, 4] : List Int).getD 1 0 ≤ ([4, 4] : List Int).getD 0 0 ∧
      ([10, -1] : List Int).getD 0 0 - ([10, -1] : List Int).getD 1 0 ≤ (11 : Nat) ∧
      ((10 : Nat) : Int) < ([10, -1] : List Int).getD 0 0 - ([10, -1] : List Int).getD 1 0 := by decide

theorem test_witness_WriteoutPhases :
    (∀ p ∈ [WritePhase.addressing, .waitReady 3, .sending, .gap 0], ∀ b ∈ [(0 : BoardId), 1], ∀ x ∈ [6, 7],
        (linkIn (writeout b x) p State.reset).resetActs = false ∧
        (linkIn (writeout b x) p State.reset).mirror.activity = .writing (writeout b x) p ∧
        (linkIn (writeout b x) p State.reset).mirror.pendingVector = none) ∧
      (writeout 0 6).extensions < 7 ∧ 7 ≤ (writeout 0 7).extensions ∧
      (writeout 0 0).board.val + 1 < (writeout 0 0).vector.count / 128 ∧
      (writeout 1 0).vector.count / 128 ≤ (writeout 1 0).board.val + 1 ∧
      (∀ x r, State.reset.mirror.activity ≠ .writing x (.waitReady r)) ∧
      (∀ x r, State.reset.mirror.activity ≠ .writing x (.waitAck r)) ∧
      ∀ x r, (linkIn (writeout 0 0) (.waitReady 3) State.reset).mirror.activity ≠ .writing x (.waitAck r) := by
  refine ⟨by decide, by decide, by decide, by decide, by decide, fun x r h => ?_, fun x r h => ?_, fun x r h => ?_⟩ <;>
    cases h

/-- The link at board 0 with `n` consecutive faults, in a phase, with the gap given. -/
def failing (n : Nat) (g : Byte) (p : WritePhase) (b : BoardId) (s : State) : State :=
  let t := linkIn (writeout b 0) p s
  { t with mirror := { t.mirror with
      boards := t.mirror.boards.set b ⟨.ok, n⟩
      settings := { t.mirror.settings with gap := g } } }

theorem test_witness_BoardOutcomes :
    (∀ g ∈ [(0 : Byte), 1], ∀ b ∈ [(0 : BoardId), 1], ∀ n ∈ [1, 2, 255],
      (failing n g (.waitAck 4) b State.reset).resetActs = false ∧
        (failing n g (.waitAck 4) b State.reset).mirror.activity = .writing (writeout b 0) (.waitAck 4) ∧
        (failing n g (.waitAck 0) b State.reset).mirror.activity = .writing (writeout b 0) (.waitAck 0) ∧
        (failing n g (.waitReady 0) b State.reset).mirror.activity = .writing (writeout b 0) (.waitReady 0) ∧
        (failing n g (.waitAck 4) b State.reset).mirror.settings.gap = g ∧
        (failing n g (.waitAck 4) b State.reset).mirror.pendingVector = none) ∧
      ({ (failing 2 0 (.waitAck 4) 1 State.reset).mirror with
        pendingVector := some { values := [], cycle := 9, count := 256 } } : MirrorLink).pendingVector ≠ none ∧
      (writeout 1 0).vector.count / 128 ≤ (writeout 1 0).board.val + 1 := by decide

/-- A board that becomes FAULTED, one that leaves FAULTED, and one that stays as it is. -/
theorem test_witness_BoardOutcomes_changes :
    (let s := failing 2 1 (.waitAck 4) 0 State.reset
    (s.mirror.boards.get 0).state ≠ .faulted ∧ ((after .boardNak s).mirror.boards.get 0).state = .faulted ∧
      ((after .boardAck s).mirror.boards.get 0).state ≠ .faulted) ∧
    (let s := { failing 2 1 (.waitAck 4) 0 State.reset with
      mirror := { (failing 2 1 (.waitAck 4) 0 State.reset).mirror with
        boards := State.reset.mirror.boards.set 0 ⟨.faulted, 255⟩ } }
    (s.mirror.boards.get 0).state = .faulted ∧ ((after .boardAck s).mirror.boards.get 0).state ≠ .faulted ∧
      ((after .boardNak s).mirror.boards.get 0).state = .faulted) := by decide

theorem test_witness_BoardFaultTrips :
    ∀ s ∈ [inClosing .closed, inLoop .closed .armed, inLoop .frozen .armed],
      (failing 2 0 (.waitAck 0) 0 s).resetActs = false ∧
        (failing 2 0 (.waitAck 0) 0 s).mirror.activity = .writing (writeout 0 0) (.waitAck 0) ∧
        ((failing 2 0 (.waitAck 0) 0 s).mirror.boards.get (writeout 0 0).board).state ≠ .faulted ∧
        ((failing 2 0 (.waitAck 0) 0 s).mirror.boards.get (writeout 0 0).board).faults < 255 ∧
        (failing 2 0 (.waitAck 0) 0 s).mirror.settings.faultLimit ≤
          ((failing 2 0 (.waitAck 0) 0 s).mirror.boards.get (writeout 0 0).board).faults + 1 ∧
        (((failing 2 0 (.waitAck 0) 0 s).loop.loop = .closed ∧ (failing 2 0 (.waitAck 0) 0 s).cycleIsOpen = true ∧
            (failing 2 0 (.waitAck 0) 0 s).loop.trip = none) ∨
          ((failing 2 0 (.waitAck 0) 0 s).loop.loop = .closed ∧ (failing 2 0 (.waitAck 0) 0 s).manager.state = .armed) ∨
          (failing 2 0 (.waitAck 0) 0 s).loop.loop ≠ .closed) := by decide

theorem test_witness_BoardFaultTrips_additional :
    ∀ n ∈ [254, 255],
      (let s : State := { failing 2 0 (.waitAck 0) 0 (inClosing .closed) with
        loop := { (inClosing .closed).loop with trip := some { cause := .slot 0, additional := n } } }
    s.loop.loop = .closed ∧ s.cycleIsOpen = true ∧ s.loop.trip = some { cause := .slot 0, additional := n }) := by decide

/-- The capture unit with a sender, a symbol, a flow state and a FIFO. -/
def sending (x : Sender) (y : TelemetrySymbol) (f : Flow) (q : List (List Word)) : State :=
  { State.reset with capture := { State.reset.capture with sender := x, symbol := y, flow := f, fifo := q } }

theorem test_witness_TelemetrySymbols :
    ∀ p ∈ [(Sender.idle, TelemetrySymbol.fill, Flow.go, ([] : List (List Word))), (.idle, .fill, .hold, [[1]]),
        (.idle, .fin, .go, [[1]]), (.sending 0xFFFF .word, .start, .go, [[1]]), (.sending 9 .word, .fill, .go, [[1]]),
        (.sending 9 .word, .word 1, .go, [[1, 2]]), (.sending 9 .word, .word 1, .hold, [[1, 2]]),
        (.sending 9 .word, .word 1, .go, [[1]]), (.sending 9 .word, .word 1, .hold, [[1]]), (.sending 9 .crc, .fill, .go, []),
        (.sending 9 .crc, .fill, .hold, []), (.sending 0xFFFF .word, .start, .hold, [[1]]), (.sending 9 .fin, .crc 9, .hold, []), (.sending 9 .fin, .crc 9, .go, [])],
      (sending p.1 p.2.1 p.2.2.1 p.2.2.2).resetActs = false ∧ (sending p.1 p.2.1 p.2.2.1 p.2.2.2).capture.sender = p.1 ∧
        (sending p.1 p.2.1 p.2.2.1 p.2.2.2).capture.symbol = p.2.1 ∧
        (sending p.1 p.2.1 p.2.2.1 p.2.2.2).capture.flow = p.2.2.1 ∧
        (sending p.1 p.2.1 p.2.2.1 p.2.2.2).capture.fifo = p.2.2.2 := by decide

theorem test_witness_Transactions :
    State.reset.resetActs = false ∧ (State.reset.ports.get .A).transaction = none ∧
      ∀ d ∈ [true, false],
        ((State.reset.onPort .A (fun q =>
          { q with transaction := some { statusByte := 0x80, kind := .awaiting, discarded := d } })).ports.get .A).transaction =
          some { statusByte := 0x80, kind := .awaiting, discarded := d } := by decide

/-- The attention line of a port in RESULT, of one with an event alone, and of one with neither. -/
theorem test_attention_line :
    [(portA (.result result1 0) State.reset).ports.get .A, (State.reset.post (.linkChange 0 .up)).ports.get .A,
      (portA (.executing .load) State.reset).ports.get .A].map Port.attention = [true, true, false] := by decide

/-- A record of a code after its length and some counted bytes. -/
def record (c : Byte) (h : Option Byte) (n : Option Word) (k : Nat) : CommandRecord :=
  { code := c, lengthHigh := h, length := n, counted := k, params := [] }

theorem test_witness_CommandBytes :
    ∀ a ∈ [PortActivity.idle, .command (record 0x11 none none 0), .command (record 0x11 (some 0) none 0),
        .command (record 0x11 (some 0) (some 15) 13), .executing .loop, .result result1 0,
        .command (record 0xEE (some 0) none 0), .command (record 0x10 (some 0) none 0), .command (record 0x01 (some 0) none 0),
        .command (record 0x02 (some 0) (some 1) 0), .command (record 0x14 (some 0) (some 1) 0),
        .command (record 0x30 (some 0) (some 1) 0)],
      (inTransaction .put (portA a State.reset)).resetActs = false ∧
        ((inTransaction .put (portA a State.reset)).ports.get .A).transaction = some { statusByte := 0x80, kind := .put, discarded := false } ∧
        ((inTransaction .put (portA a State.reset)).ports.get .A).activity = a := by decide

theorem test_witness_CommandBytes_boundaries :
    ((0 : Byte) ++ (1 : Byte) ≠ (0 : Word)) ∧ (record 0x11 (some 0) (some 15) 13).counted + 1 < (15 : Word).toNat ∧
      (0xEE : Byte) ∉ commandCodes ∧ (0x10 : Byte) ∈ commandCodes ∧ (0x10 : Byte) ∉ [(0x01 : Byte), 0x40, 0x41, 0x50] ∧
      5 < (6 : Byte).toNat := by decide

/-- A record of a code whose length is complete and whose next byte is its last. -/
def lastByte (c : Byte) (n : Word) (ps : List Byte) : CommandRecord :=
  { code := c, lengthHigh := some 0, length := some n, counted := ps.length, params := ps }

/-- The record complete at its last byte: lengths that are and are not a command's, and the parameters in their layouts. -/
theorem test_witness_CommandBytes_complete :
    (∀ k ∈ [((0x01 : Byte), (1 : Word)), (0x02, 1), (0x02, 2), (0x10, 18), (0x11, 13), (0x12, 7), (0x13, 6), (0x14, 1),
        (0x15, 10), (0x16, 3), (0x21, 8), (0x22, 2), (0x30, 1), (0xEE, 1), (0x20, 6)],
      (lastByte k.1 k.2 (List.replicate (k.2.toNat - 1) 0)).counted + 1 = k.2.toNat ∧
        (lastByte k.1 k.2 (List.replicate (k.2.toNat - 1) 0)).params.length =
          (lastByte k.1 k.2 (List.replicate (k.2.toNat - 1) 0)).counted) ∧
      ([9, 0, 100, 0, 200, 0, 0, 1] : List Byte).length + 1 = 9 ∧
      ([0, 1, 0, 2, 3] ++ [4] : List Byte) = bytes16 1 ++ bytes16 2 ++ [3, 4] ∧
      ([1] ++ [2] : List Byte) = bytes16 0x0102 ∧
      ([2, 0, 0, 0, 5, 0, 1, 0] ++ [77] : List Byte) = [2] ++ bytes32 5 ++ [0, 1] ++ [(77 : Word)].flatMap bytes16 ∧
      (9 : Word).toNat = 7 + 2 * ((0 : Byte) ++ (1 : Byte) : Word).toNat ∧
      (8201 : Word).toNat = 7 + 2 * ((0x10 : Byte) ++ (1 : Byte) : Word).toNat ∧
      4096 < ((0x10 : Byte) ++ (1 : Byte) : Word).toNat ∧ ((0x10 : Byte) ++ (0 : Byte) : Word).toNat ≤ 4096 := by
  refine ⟨by simp [lastByte], by decide, by decide, by decide, by decide, by decide, rfl, by decide, by decide⟩

theorem test_witness_ResultBytes :
    ∀ n ∈ [4, 5],
      (inTransaction .take (portA (.result result1 n) State.reset)).resetActs = false ∧
        ((inTransaction .take (portA (.result result1 n) State.reset)).ports.get .A).transaction =
          some { statusByte := 0x80, kind := .take, discarded := false } ∧
        ((inTransaction .take (portA (.result result1 n) State.reset)).ports.get .A).activity = .result result1 n ∧
        (n + 1 < result1.data.length + 5 ∨ n + 1 = result1.data.length + 5) := by decide

theorem test_witness_ResultBytes_further :
    ∀ k ∈ [TransactionKind.ignored, .status],
      (inTransaction k State.reset).resetActs = false ∧
        ((inTransaction k State.reset).ports.get .A).transaction = some { statusByte := 0x80, kind := k, discarded := false } := by
  decide

/-- GET STATUS, READ COUNTERS, UNKNOWN COMMAND and every other statement whose hypothesis is a ready port. -/
theorem test_witness_port_ready :
    ∀ s ∈ [State.reset, portA (.command (record 0x11 none none 0)) State.reset], s.portReady .A := by decide

/-- A presence byte as GET STATUS puts it. -/
theorem test_witness_GetStatusChangesNothing :
    ∃ opt : Nat → Option (List Byte) → List Byte, (∀ n, opt n none = List.replicate (n + 1) 0) ∧
      ∀ n bs, opt n (some bs) = 1 :: bs :=
  ⟨fun n x => match x with
    | none => List.replicate (n + 1) 0
    | some bs => 1 :: bs, fun _ => rfl, fun _ _ => rfl⟩

theorem test_witness_SenseEventTakesOldest :
    ((State.reset.post (.linkChange 0 .down)).ports.get .A).queue =
        [{ subject := .linkChange 0 .down, cycle := 0, time := 0 }] ∧ (State.reset.post (.linkChange 0 .down)).portReady .A ∧
      (State.reset.ports.get .A).queue = [] ∧
      ∀ x ∈ [EventSubject.slotChange 3 .muted, .loopChange .idle .opened (.request .B), .loopChange .closed .idle (.reset .A),
          .loopChange .closed .frozen (.trip (.slot 3) 255), .loopChange .closed .frozen (.trip (.board 7) 0),
          .boardChange 7 .faulted 255, .offloadReady 1 4096],
        ((State.reset.post x).ports.get .A).queue = { subject := x, cycle := 0, time := 0 } :: [] := by decide

theorem test_witness_ReadOffloadReturnsMailbox :
    State.reset.offload.mailbox = none ∧
      ({ State.reset with offload := { State.reset.offload with
          mailbox := some { cycle := 3, window := 4096, mask := 15, values := Quad.fill 1 }, fresh := true } } :
        State).portReady .A := by decide

theorem test_witness_UnknownCommandRefused :
    State.reset.portReady .B ∧ ∀ c ∈ [(0x00 : Byte), 0x03, 0x17, 0x51, 0xFF],
      c ∉ [(0x01 : Byte), 0x02, 0x10, 0x11, 0x12, 0x13, 0x14, 0x15, 0x16, 0x20, 0x21, 0x22, 0x30, 0x40, 0x41, 0x50] := by decide

/-- Geometry parameters with an actuator count, and slots alike. -/
def geometry (n : Word) (e : Byte) (c : Word) : GeometryParams :=
  { actuatorCount := n, slots := Quad.fill { enabled := e, tag := 0, slopeCount := c } }

theorem test_witness_SetGeometryInIdle :
    (inLoop .opened .armed).loop.loop ≠ .idle ∧ State.reset.loop.loop = .idle ∧ (geometry 0 0 32).actuatorCount.toNat < 128 ∧
      1024 < (geometry 1152 0 32).actuatorCount.toNat ∧ (geometry 200 0 32).actuatorCount.toNat % 128 ≠ 0 ∧
      1 < ((geometry 128 2 32).slots.get 0).enabled.toNat ∧ ((geometry 128 0 0).slots.get 0).slopeCount.toNat < 32 ∧
      1024 < ((geometry 128 0 1056).slots.get 0).slopeCount.toNat ∧ ((geometry 128 0 33).slots.get 0).slopeCount.toNat % 32 ≠ 0 ∧
      2048 < ((links.filter (fun l => ((geometry 128 1 544).slots.get l).enabled == 1)).map
        (fun l => ((geometry 128 1 544).slots.get l).slopeCount.toNat)).sum ∧
      ∀ x ∈ [geometry 128 1 512, geometry 1024 0 1024, geometry 1024 1 32],
        128 ≤ x.actuatorCount.toNat ∧ x.actuatorCount.toNat ≤ 1024 ∧ x.actuatorCount.toNat % 128 = 0 ∧
        (∀ l : LinkId, (x.slots.get l).enabled.toNat ≤ 1 ∧ 32 ≤ (x.slots.get l).slopeCount.toNat ∧
          (x.slots.get l).slopeCount.toNat ≤ 1024 ∧ (x.slots.get l).slopeCount.toNat % 32 = 0) ∧
        ((links.filter (fun l => (x.slots.get l).enabled == 1)).map (fun l => (x.slots.get l).slopeCount.toNat)).sum ≤ 2048 := by decide

/-- Slots that stay disabled, become enabled, stay enabled and become disabled. -/
theorem test_witness_SetGeometryInIdle_slots :
    (let x : GeometryParams := { actuatorCount := 128, slots := ⟨⟨0, 0, 32⟩, ⟨1, 7, 64⟩, ⟨1, 0, 32⟩, ⟨0, 9, 32⟩⟩ }
    let e : Slot := { Slot.powerOn with enabled := true, state := .active }
    let s : State := { State.reset with slots := ⟨Slot.powerOn, Slot.powerOn, e, e⟩ }
    s.portReady .A ∧ s.loop.loop = .idle ∧
      ∀ p ∈ [((0 : LinkId), false, false), (1, true, false), (2, true, true), (3, false, true)],
        ((x.slots.get p.1).enabled == 1) = p.2.1 ∧ (s.slots.get p.1).enabled = p.2.2) := by decide

theorem test_witness_SetsRefusedOutOfRange :
    2 < (3 : Byte).toNat ∧ 3 < (4 : Byte).toNat ∧ 1 < (2 : Byte).toNat ∧ 4 < (5 : Byte).toNat ∧ (99 : Word).toNat < 100 ∧
      (0 < (1 : Word).toNat ∧ (99 : Word).toNat < 100) ∧ 16 < (17 : Byte).toNat ∧ (1 : Byte).toNat ≤ (1 : Byte).toNat ∧
      15 < (16 : Byte).toNat ∧ (1 : Word).toNat < (2 : Word).toNat ∧ 32 < (33 : Word).toNat ∧ 4096 < (4097 : Word).toNat ∧
      { TimingSettings.powerOn with mode := .lead }.mode = .lead ∧ (inLoop .opened .armed).loop.loop ≠ .idle ∧
      ((inLoop .opened .armed).slots.get { TimingSettings.powerOn with mode := .lead }.leadSlot).enabled = false ∧
      (inLoop .opened .armed).portReady .A := by decide

/-- Timing settings at the ends of their ranges. -/
def edgeTiming (p d f : Word) : TimingSettings :=
  { TimingSettings.powerOn with mode := .lead, period := p, deadline := d, fallback := f }

theorem test_witness_SetsHeldWhileCycleOpen :
    (∀ s ∈ [gathering noStatus, inClosing .closed], s.portReady .A ∧ s.cycleIsOpen = true) ∧
      ((gathering noStatus).slots.get (edgeTiming 100 1 0).leadSlot).enabled = true ∧ (gathering noStatus).loop.loop ≠ .idle ∧
      ∀ x ∈ [edgeTiming 100 1 0, edgeTiming 65535 65535 100],
        100 ≤ x.period.toNat ∧ 1 ≤ x.deadline.toNat ∧ (x.fallback = 0 ∨ 100 ≤ x.fallback.toNat) := by decide

/-- The largest divisor with the largest phase and hold limit, and the ends of the other ranges, for both statements about accepted SET commands. -/
theorem test_witness_Sets_in_range :
    (1 ≤ 16 ∧ 16 ≤ 16 ∧ 15 < 16 ∧ 15 ≤ 15) ∧ (1 : Word).toNat ≥ 1 ∧ (4 : Byte).toNat ≤ 4 ∧ 1 ≤ (1 : Word).toNat ∧
      (32 : Word).toNat ≤ 32 ∧ (4096 : Word).toNat ≤ 4096 ∧ (5 : Word).toNat ≤ (5 : Word).toNat := by decide

theorem test_witness_SetsInForceAtOnce :
    (∀ s ∈ [State.reset, inLoop .opened .armed], s.portReady .A ∧ s.cycleIsOpen = false) ∧
      State.reset.loop.loop = .idle ∧ State.reset.manager.state = .idle ∧ State.reset.manager.latch = none ∧
      State.reset.manager.lineDelay = none ∧ State.reset.manager.period = none ∧ State.reset.manager.fallback = none ∧
      State.reset.line.measuring = none := by decide

/-- SET TIMING in ARMED: from LINE and TIMER mode with a latched trigger, to LEAD mode without a frame, with the lead slot
muted, and with a frame that waits. -/
theorem test_witness_SetsInForceAtOnce_armed :
    (∀ q ∈ [[], [entry false 1]], ∀ m ∈ [true, false],
      (let s := (leadMode .armed q).onSlot 0 (fun x => { x with muted := m })
      s.portReady .A ∧ s.cycleIsOpen = false ∧ s.manager.state = .armed ∧ s.loop.loop ≠ .idle ∧
        (s.slots.get (edgeTiming 100 1 100).leadSlot).enabled = true ∧ s.line.measuring = none ∧
        (s.slots.get (edgeTiming 100 1 100).leadSlot).muted = m ∧
        (s.receivers.get (edgeTiming 100 1 100).leadSlot).fifo = q)) ∧
      (let s := lineMode .armed true false .f2 0 true (some .line) (some 1) (some 1)
      s.portReady .A ∧ s.cycleIsOpen = false ∧ s.manager.latch ≠ none ∧ TimingSettings.powerOn.mode ≠ s.manager.settings.mode ∧
        ({ TimingSettings.powerOn with filter := .f2 } : TimingSettings).filter = s.manager.settings.filter ∧
        TimingSettings.powerOn.edge = s.manager.settings.edge) := by decide

/-- The stores with a LOAD of a store in execution from port B, and a pending APPLY. -/
def storesWith (j : Option StoreId) (a : Option (BitVec 9)) (s : State) : State :=
  { s with stores := { s.stores with
      load := match j with
        | none => .idle
        | some id => .loading { store := id, first := 0, count := 2, written := 1, port := .B, words := [1, 2] }
      pendingApply := a.map (fun x => { selection := x, port := .B }) } }

theorem test_witness_LoadChecksAndStarts :
    (8 < (9 : Byte).toNat ∧ 4096 < (4097 : Word).toNat ∧ (4096 : Word).toNat ≤ 4096) ∧
      (8 : Byte) = BitVec.ofNat 8 StoreId.offloadvec.number ∧
      StoreId.offloadvec.size < (1 : BitVec 32).toNat + (4096 : Word).toNat ∧
      (0 : BitVec 32).toNat + (4096 : Word).toNat ≤ StoreId.offloadvec.size ∧
      (storesWith (some .matrix) none State.reset).portReady .A ∧
      (storesWith (some .matrix) none State.reset).stores.load ≠ .idle ∧ State.reset.stores.load = .idle ∧
      (storesWith none (some 0x100) State.reset).stores.pendingApply = some { selection := 0x100, port := .B } ∧
      (0x100 : BitVec 9).getLsbD StoreId.offloadvec.number = true ∧ (0x100 : BitVec 9).getLsbD StoreId.matrix.number = false := by decide

theorem test_witness_LoadWordWriteWritesShadow :
    (storesWith (some .gains) none State.reset).resetActs = false ∧ (storesWith (some .gains) none State.reset).memoryWf = true ∧
      (storesWith (some .gains) none State.reset).stores.load =
        .loading { store := .gains, first := 0, count := 2, written := 1, port := .B, words := [1, 2] } ∧ 0 + 1 < 2 ∧ 2 ≤ 1 + 1 := by decide

theorem test_witness_ReadBackReturnsWords :
    State.reset.portReady .A ∧ 1 < (2 : Byte).toNat ∧ (0 : Byte) = BitVec.ofNat 8 StoreId.matrix.number ∧
      StoreId.matrix.size < (2097152 : BitVec 32).toNat + (1 : Word).toNat ∧
      (2097151 : BitVec 32).toNat + (1 : Word).toNat ≤ StoreId.matrix.size ∧
      ∃ j, (storesWith (some .matrix) none State.reset).stores.load = .loading j ∧ j.store = .matrix := by
  refine ⟨by decide, by decide, by decide, by decide, by decide, _, rfl, rfl⟩

theorem test_witness_ApplyExchangesOrWaits :
    512 ≤ (512 : Word).toNat ∧ (511 : Word) ≠ 0 ∧ (511 : Word).toNat < 512 ∧
      (storesWith none (some 1) State.reset).stores.pendingApply ≠ none ∧ State.reset.stores.pendingApply = none ∧
      (256 : Word).getLsbD StoreId.matrix.number = false ∧ (257 : Word).getLsbD StoreId.matrix.number = true ∧
      (storesWith (some .matrix) none (gathering noStatus)).cycleIsOpen = true ∧ State.reset.cycleIsOpen = false := by decide

theorem test_witness_LoopRequestsAtOnce :
    ∀ l ∈ [LoopState.opened, .closed, .frozen],
      (inLoop l .armed).portReady .A ∧ (inLoop l .armed).manager.state = .armed ∧ (inLoop l .armed).loop.trip = none ∧
        (inLoop l .armed).loop.request = none ∧ (inLoop l .armed).loop.loop = l := by decide

/-- STOP with a latched trigger and two frames that wait, one of them in reception. -/
theorem test_stop_counts_what_it_drops :
    (let s := ending (.storing (frame 5)) [entry false 1, entry false 0] true (lineMode .armed true true .off 0 true (some .line) none none)
    let t := after (.loopStop .A) s
    (t.manager.state, t.manager.counters.droppedTriggers, t.receivers.q0.counters.dropped, t.receivers.q0.fifo,
      t.ports.pB.queue.map EventRecord.subject)) = (.idle, 1, 2, [], [.loopChange .opened .idle (.request .A)]) := by decide

/-- A state in CLOSING with a request of port B pending, and port B EXECUTING it. -/
def requested (l : LoopState) (g : RequestTarget) : State :=
  { (inClosing l).onPort .B (fun q => { q with activity := .executing .loop }) with
    loop := { (inClosing l).loop with request := some { target := g, port := .B } } }

theorem test_witness_LoopRequestsPendingOrRefused :
    (requested .closed .stop).portReady .A ∧ (requested .closed .stop).loop.trip = none ∧ (requested .closed .stop).cycleIsOpen = true ∧
      (requested .closed .stop).loop.request = some { target := .stop, port := .B } ∧ PortId.B = PortId.A.other ∧
      (inClosing .closed).loop.request = none ∧ (inClosing .opened).loop.loop = .opened ∧ (inClosing .frozen).loop.loop = .frozen ∧
      ({ inClosing .closed with loop := { (inClosing .closed).loop with trip := some { cause := .board 7, additional := 255 } } } :
        State).loop.trip ≠ none ∧ State.reset.loop.loop = .idle := by decide

theorem test_witness_LoopStartArmsLoop :
    State.reset.portReady .A ∧ State.reset.loop.trip = none ∧ State.reset.loop.loop = .idle ∧
      (∀ l : LinkId, (State.reset.slots.get l).enabled = false) ∧ State.reset.manager.settings.mode ≠ .lead ∧
      (∃ l : LinkId, ((State.reset.onSlot 3 (fun x => { x with enabled := true })).slots.get l).enabled = true) ∧
      (inLoop .opened .armed).loop.loop ≠ .idle ∧
      (∀ q ∈ [[], [entry false 1]],
        (let s : State := { leadMode .idle q with loop := State.reset.loop }
        s.portReady .A ∧ s.loop.trip = none ∧ s.loop.loop = .idle ∧ s.manager.settings.mode = .lead ∧
          (s.slots.get s.manager.settings.leadSlot).enabled = true ∧ (s.slots.get s.manager.settings.leadSlot).muted = false ∧
          (s.receivers.get s.manager.settings.leadSlot).fifo = q)) ∧
      (let s : State := { (leadMode .idle []).onSlot 0 (fun x => { x with enabled := false }) with loop := State.reset.loop }
      s.manager.settings.mode = .lead ∧ (s.slots.get s.manager.settings.leadSlot).enabled = false) := by decide

/-- START of a disabled slot that the master enabled, of one that stays as it is, and of a LOST one. -/
theorem test_witness_LoopStartArmsLoop_events :
    (let s := (State.reset.onSlot 0 (fun x => { x with enabled := true, state := .lost })).onSlot 1 (fun x =>
      { x with enabled := true, muted := true, state := .muted })
    s.portReady .B ∧ s.loop.trip = none ∧ (s.slots.get 0).state ≠ .active ∧ (s.slots.get 1).state = .muted ∧
      (after (.loopStart .B) s).ports.pA.queue.map EventRecord.subject =
        [.loopChange .idle .opened (.request .B), .slotChange 0 .active]) := by decide

theorem test_witness_ResetPartResetsEveryBlock :
    (requested .closed .opn).portReady .A ∧ ((requested .closed .opn).ports.get PortId.A.other).activity = .executing .loop ∧
      (storesWith (some .limits) none State.reset).stores.load =
        .loading { store := .limits, first := 0, count := 2, written := 1, port := .B, words := [1, 2] } := by decide

theorem test_witness_ResetPartResetsEveryBlock_other :
    ∀ a ∈ [PortActivity.idle, .command (record 0x11 none none 0), .result result1 0, .executing .apply, .executing .loop,
        .executing .load],
      ((portA a State.reset).ports.get PortId.B.other).activity = a ∧ (portA a State.reset).portReady .B ∧
        ((inTransaction .put (portA a State.reset)).ports.get PortId.B.other).transaction =
          some { statusByte := 0x80, kind := .put, discarded := false } := by decide

theorem test_witness_StepKeepsBounds :
    (requested .closed .opn).queuesBounded ∧ (requested .closed .opn).telemetryBounded ∧ (requested .closed .opn).stagingBounded ∧
      (requested .closed .opn).agesBounded ∧ ∃ t, step (requested .closed .opn) = .next t := by
  refine ⟨by unfold State.queuesBounded; decide, by unfold State.telemetryBounded; decide, by unfold State.stagingBounded; decide, ?_, _, rfl⟩
  intro l
  fin_cases l <;> exact ⟨by decide, by decide, by intro p h; cases h⟩

theorem test_witness_StepKeepsCanonicalMemory :
    (requested .closed .opn).memoryWf = true ∧ ∃ t, step (requested .closed .opn) = .next t := ⟨by decide, _, rfl⟩

theorem test_witness_StepKeepsCycleCoherent :
    (requested .closed .opn).idleTogether ∧ (requested .closed .opn).cycleCoherent := by
  refine ⟨by unfold State.idleTogether; decide, ⟨_, _, rfl, rfl⟩, rfl⟩

theorem test_witness_StepKeepsExecutionsHeld :
    (requested .closed .opn).oneLoopChange ∧ (requested .closed .opn).waitsInCycle ∧ (requested .closed .opn).executionsHeld := by
  refine ⟨Or.inr rfl, Or.inl rfl, ?_⟩
  intro p
  cases p <;> simp [requested, inClosing, inLoop, State.onPort, Pair.get, Pair.set, State.reset, Port.powerOn,
    StoreController.powerOn]

end Sys2Proof.Tests
end

/-!
SUPPORT. The command computation: the error sum and the candidate spelled out, the final drive and the integrator of an
actuator below the count as integers, and the anti-windup of R97.
-/
namespace Sys2Proof.Machine

/-! ## Stages 1 to 5 -/

/-- A slot adds its held contribution exactly if it is selected FRESH or HELD (R87). -/
theorem slotError_eq (w : WorkingSet) (a : Nat) (l : LinkId) :
    slotError w a l =
      if w.selections.get l = .fresh ∨ w.selections.get l = .held then ((w.contributions.get l).at a).toInt else 0 := by
  unfold slotError
  cases w.selections.get l <;> simp

/-- The error sum over the four links, with the choice of each slot written out (R87). -/
theorem errorSum_eq (w : WorkingSet) (a : Nat) :
    errorSum w a = (links.map (fun l =>
      if w.selections.get l = .fresh ∨ w.selections.get l = .held then ((w.contributions.get l).at a).toInt else 0)).sum :=
  congrArg List.sum (List.map_congr_left fun l _ => slotError_eq w a l)

/-- The candidate of a CLOSED close, in the words of the actuator's gain group (R89 to R91). -/
theorem candidate_of_closed {w : WorkingSet} (a : Nat) (h : w.loop = .closed) :
    candidate w a = (((storeWord .gains w.gains (2 * gainGroup w a + 1)).toNat + 1) * (w.u.at a).toInt + 32768) / 65536 +
      ((storeWord .gains w.gains (2 * gainGroup w a)).toNat * errorSum w a + 16384) / 32768 := by
  rw [candidate, h]
  rfl

/-- The candidate of a FROZEN close is the integrator held (R91). -/
theorem candidate_of_frozen {w : WorkingSet} (a : Nat) (h : w.loop = .frozen) : candidate w a = (w.u.at a).toInt := by
  rw [candidate, h]

/-- In an OPEN close the rounded drive is the offset and probe term (R91 to R93). -/
theorem rounded_of_opened {w : WorkingSet} (a : Nat) (h : w.loop = .opened) : rounded w a = offsetOf w a := by
  have hv : candidate w a = 0 := by rw [candidate, h]
  rw [rounded, positionOf, hv]
  omega

/-! ## Stages 6 to 8 -/

/-- A clamped drive is a value of a drive word, whatever the limits of the actuator are (R94, R96). -/
theorem clampDrive_word_range (w : WorkingSet) (a : Nat) (x : Int) :
    -32768 ≤ clampDrive w a x ∧ clampDrive w a x ≤ 32767 := by
  have hlo := (storeWord .limits w.limits (2 * a)).le_toInt
  have hlo' := (storeWord .limits w.limits (2 * a)).toInt_lt
  have hhi := (storeWord .limits w.limits (2 * a + 1)).toInt_lt
  unfold clampDrive lowLimit highLimit
  omega

/-- Entry `a` of a vector given by a function of the actuator. -/
theorem vectorAt_map_range {n a : Nat} (f : Nat → Int) (ha : a < n) : vectorAt ((List.range n).map f) a = f a := by
  simp [vectorAt, ha]

/-- The final drive of an actuator below the count is the clamp of what the neighbour pass leaves (R96). -/
theorem vectorAt_finalVector {w : WorkingSet} {a : Nat} (ha : a < w.count) :
    vectorAt (finalVector w) a = clampDrive w a (vectorAt (passedVector w).1 a) :=
  vectorAt_map_range _ ha

/-- The final drive of an actuator below the count is a value of a drive word. -/
theorem finalVector_word_range {w : WorkingSet} {a : Nat} (ha : a < w.count) :
    -32768 ≤ vectorAt (finalVector w) a ∧ vectorAt (finalVector w) a ≤ 32767 := by
  rw [vectorAt_finalVector ha]
  exact clampDrive_word_range w a _

/-- The D of a close holds the final drive of every actuator below the count, without loss (R86, R96). -/
theorem toInt_closeResult_d {w : WorkingSet} {a : Nat} (ha : a < w.count) :
    ((closeResult w).d.at a).toInt = vectorAt (finalVector w) a := by
  have hrange := finalVector_word_range ha
  simp only [closeResult, Cells.at_tabulate, if_pos ha]
  exact BitVec.toInt_ofInt_eq_self (by decide) (by omega) (by omega)

/-! ## Stage 9 -/

/-- The new integrator of a CLOSED or FROZEN close: the candidate where the drive is the rounded one, else the
anti-windup value (R97). -/
theorem newIntegrator_of_running {w : WorkingSet} (a : Nat) (d : Int) (h : w.loop = .closed ∨ w.loop = .frozen) :
    newIntegrator w a d = if d = rounded w a then candidate w a else (d - offsetOf w a) * 65536 := by
  unfold newIntegrator
  rcases h with h | h <;> rw [h]

/-- The new integrator of an OPEN close is 0 (R98). -/
theorem newIntegrator_of_opened {w : WorkingSet} (a : Nat) (d : Int) (h : w.loop = .opened) : newIntegrator w a d = 0 := by
  rw [newIntegrator, h]

/-- With the offset and probe term of its close the new integrator rounds to the final drive, limited or not (R97). -/
theorem newIntegrator_rounds_to_drive {w : WorkingSet} (a : Nat) (d : Int) (h : w.loop = .closed ∨ w.loop = .frozen) :
    (newIntegrator w a d + offsetOf w a * 65536 + 32768) / 65536 = d := by
  rw [newIntegrator_of_running a d h]
  split
  · next hd => rw [hd]; rfl
  · omega

/-- The offset and probe term is a sum of two signed words (R92). -/
theorem offsetOf_range (w : WorkingSet) (a : Nat) : -65536 ≤ offsetOf w a ∧ offsetOf w a ≤ 65534 := by
  have ho := (storeWord .offsets w.offsets a).le_toInt
  have ho' := (storeWord .offsets w.offsets a).toInt_lt
  have hq := (w.probe.at a).le_toInt
  have hq' := (w.probe.at a).toInt_lt
  unfold offsetOf
  omega

/-- An integrator that rounds to a drive word with the offset and probe term is below 2³³ in magnitude, so the new
integrator is, although the candidate of R91 alone need not be. -/
theorem newIntegrator_natAbs_lt {w : WorkingSet} (a : Nat) {d : Int} (h : w.loop = .closed ∨ w.loop = .frozen)
    (hd : -32768 ≤ d ∧ d ≤ 32767) : (newIntegrator w a d).natAbs < 8589934592 := by
  have hround := newIntegrator_rounds_to_drive a d h
  have hbias := offsetOf_range w a
  omega

/-- The U of a close holds the new integrator of every actuator below the count, without loss: it fits 40 bits (R86, R97). -/
theorem toInt_closeResult_u {w : WorkingSet} {a : Nat} (ha : a < w.count) (h : w.loop = .closed ∨ w.loop = .frozen) :
    ((closeResult w).u.at a).toInt = newIntegrator w a (vectorAt (finalVector w) a) := by
  have hbound := newIntegrator_natAbs_lt a h (finalVector_word_range ha)
  simp only [closeResult, Cells.at_tabulate, if_pos ha]
  exact BitVec.toInt_ofInt_eq_self (by decide) (by omega) (by omega)

/-- Every entry of U is 0 after an OPEN close (R98). -/
theorem closeResult_u_of_opened {w : WorkingSet} (a : Nat) (h : w.loop = .opened) : (closeResult w).u.at a = 0 := by
  simp [closeResult, newIntegrator_of_opened _ _ h]

/-! ## The integrator after a close -/

/-- Settles O30: the candidate of each loop state is stages 1 to 4 written out, and U and D are read back as the integers
of stages 8 and 9, for which the anti-windup lemmas hold. -/
theorem integratorReproducesDrive : Obligations.IntegratorReproducesDrive := by
  rintro w a g errors v bias ha rfl rfl rfl
  refine ⟨fun hv => ?_, fun hopen => ⟨rounded_of_opened a hopen, closeResult_u_of_opened a hopen⟩⟩
  have hrun : w.loop = .closed ∨ w.loop = .frozen := hv.imp And.left And.left
  have hcand : v = candidate w a := by
    rcases hv with ⟨hclosed, rfl⟩ | ⟨hfrozen, rfl⟩
    · rw [candidate_of_closed a hclosed, errorSum_eq]
      rfl
    · exact (candidate_of_frozen a hfrozen).symm
  subst hcand
  rw [toInt_closeResult_u ha hrun, toInt_closeResult_d ha]
  exact ⟨rfl, newIntegrator_of_running a _ hrun, newIntegrator_natAbs_lt a hrun (finalVector_word_range ha),
    newIntegrator_rounds_to_drive a _ hrun⟩

end Sys2Proof.Machine

/-!
SUPPORT. One entry of the neighbour pass: the values of a split pair, and what the pass does with the entry whichever of
its two actuators holds the higher value.
-/
namespace Sys2Proof.Machine

/-! ## The split of an excess -/

/-- An in-range entry that is set reads back the value set. -/
@[simp] theorem vectorAt_set_same {v : List Int} {a : Nat} (x : Int) (ha : a < v.length) : vectorAt (v.set a x) a = x := by
  simp [vectorAt, ha]

/-- Setting one entry leaves every other one. -/
@[simp] theorem vectorAt_set_of_ne {v : List Int} {a k : Nat} (x : Int) (hk : k ≠ a) :
    vectorAt (v.set a x) k = vectorAt v k := by
  simp [vectorAt, List.getElem?_set_ne hk.symm]

/-- A split changes the values of the vector, not how many there are. -/
@[simp] theorem length_splitExcess (v : List Int) (hi lo x : Nat) : (splitExcess v hi lo x).length = v.length := by
  simp [splitExcess]

/-- The higher value of a split pair takes the larger share (R108). -/
theorem vectorAt_splitExcess_higher {v : List Int} {hi lo : Nat} (x : Nat) (hhi : hi < v.length) (hne : hi ≠ lo) :
    vectorAt (splitExcess v hi lo x) hi = vectorAt v hi - ((x + 1) / 2 : Nat) := by
  rw [splitExcess, vectorAt_set_of_ne _ hne, vectorAt_set_same _ hhi]

/-- The lower value of a split pair takes the smaller share (R108). -/
theorem vectorAt_splitExcess_lower {v : List Int} {lo : Nat} (hi x : Nat) (hlo : lo < v.length) :
    vectorAt (splitExcess v hi lo x) lo = vectorAt v lo + (x / 2 : Nat) := by
  rw [splitExcess, vectorAt_set_same _ (by simpa using hlo)]

/-- A split leaves every actuator outside its pair (R108). -/
theorem vectorAt_splitExcess_other {hi lo k : Nat} (v : List Int) (x : Nat) (hkhi : k ≠ hi) (hklo : k ≠ lo) :
    vectorAt (splitExcess v hi lo x) k = vectorAt v k := by
  rw [splitExcess, vectorAt_set_of_ne _ hklo, vectorAt_set_of_ne _ hkhi]

/-! ## An entry in either order of its pair -/

/-- The excess of a pair whose higher value is known does not depend on the order in which the entry names it (R107). -/
theorem excess_of_ordered {v : List Int} {hi lo limit : Nat} {e : NeighbourEntry} (hord : vectorAt v lo ≤ vectorAt v hi)
    (he : e = ⟨hi, lo, limit⟩ ∨ e = ⟨lo, hi, limit⟩) : excess v e = (vectorAt v hi - vectorAt v lo - limit).toNat := by
  rcases he with rfl | rfl <;> simp only [excess] <;> omega

/-- The pass takes an entry within its limit without effect (R107). -/
theorem passEntry_of_within {v : List Int} {hi lo limit : Nat} {e : NeighbourEntry} (n : Nat)
    (hord : vectorAt v lo ≤ vectorAt v hi) (he : e = ⟨hi, lo, limit⟩ ∨ e = ⟨lo, hi, limit⟩)
    (hwithin : vectorAt v hi - vectorAt v lo ≤ limit) : passEntry (v, n) e = (v, n) := by
  have hnone : excess v e = 0 := by
    rw [excess_of_ordered hord he]
    omega
  rw [passEntry, if_pos hnone]

/-- The pass splits an entry over its limit with the higher value first, whichever order the entry names, and counts it
(R108). -/
theorem passEntry_of_over {v : List Int} {hi lo limit : Nat} {e : NeighbourEntry} (n : Nat)
    (he : e = ⟨hi, lo, limit⟩ ∨ e = ⟨lo, hi, limit⟩) (hover : limit < vectorAt v hi - vectorAt v lo) :
    passEntry (v, n) e = (splitExcess v hi lo (vectorAt v hi - vectorAt v lo - limit).toNat, n + 1) := by
  have hord : vectorAt v lo ≤ vectorAt v hi := by omega
  have hexcess := excess_of_ordered hord he
  have hsome : ¬ excess v e = 0 := by omega
  rw [passEntry, if_neg hsome, hexcess]
  rcases he with rfl | rfl
  · exact if_pos (by dsimp only; omega)
  · exact if_neg (by dsimp only; omega)

/-- Settles O31: within the limit the entry has no excess; over it the two values differ, so the actuators do, and the
split gives each its share. -/
theorem neighbourEntrySplitsExcess : Obligations.NeighbourEntrySplitsExcess := by
  intro v n hi lo limit hhi hlo hord e hmem
  have he : e = ⟨hi, lo, limit⟩ ∨ e = ⟨lo, hi, limit⟩ := by simpa using hmem
  refine ⟨passEntry_of_within n hord he, fun hover => ⟨_, passEntry_of_over n he hover, length_splitExcess .., ?_⟩⟩
  have hne : hi ≠ lo := by
    rintro rfl
    omega
  have hhigher := vectorAt_splitExcess_higher (vectorAt v hi - vectorAt v lo - limit).toNat hhi hne
  have hlower := vectorAt_splitExcess_lower hi (vectorAt v hi - vectorAt v lo - limit).toNat hlo
  simp only [vectorAt] at hhigher hlower ⊢
  exact ⟨by omega, by omega, by omega, fun k => vectorAt_splitExcess_other v _⟩

end Sys2Proof.Machine

/-!
SUPPORT. The store controller's commands (Chapter 10): store numbers, the parameter checks and states of the load engine
in the manual's terms, and for each of LOAD, READ BACK and APPLY what it does in each of its cases; the stores after
power-on reset.
-/
namespace Sys2Proof.Machine

/-! ## Power-on contents -/

/-- Power-on reset puts the store controller in its power-on state (R170). -/
@[simp] theorem powerOnReset_stores (s : State) : (powerOnReset s).stores = StoreController.powerOn := rfl

/-- A power-on copy reads as the power-on contents at every index (R159). -/
theorem storeWord_powerOn (id : StoreId) (i : Nat) : storeWord id (Stores.powerOn.get id) i = id.powerOn i := by
  cases id <;> rfl

/-- LIMITS and GAINS alone have power-on contents other than 0 (R159). -/
theorem StoreId.powerOn_eq_zero {id : StoreId} (hlimits : id ≠ .limits) (hgains : id ≠ .gains) (i : Nat) :
    id.powerOn i = 0 := by
  cases id
  case limits => exact absurd rfl hlimits
  case gains => exact absurd rfl hgains
  all_goals rfl

/-- Settles O4: both copies are the power-on copy, which reads as the power-on contents. -/
theorem powerOnResetStores : Obligations.PowerOnResetStores := by
  intro s
  refine ⟨powerOnReset s, rfl, ?_⟩
  rw [powerOnReset_stores]
  refine ⟨fun i => ?_, fun id hlimits hgains i => ?_, rfl, rfl, rfl⟩
  · have hlimits := storeWord_powerOn .limits i
    have hgains := storeWord_powerOn .gains i
    exact ⟨hlimits, hlimits, hgains, hgains⟩
  · have hzero := (storeWord_powerOn id i).trans (StoreId.powerOn_eq_zero hlimits hgains i)
    exact ⟨hzero, hzero⟩

/-! ## The checks in the manual's terms -/

/-- The number of a store names it (R159). -/
@[simp] theorem StoreId.ofNumber_number (id : StoreId) : StoreId.ofNumber id.number = some id := by
  cases id <;> rfl

/-- The stores are numbered 0 to 8 (R159). -/
theorem StoreId.number_le (id : StoreId) : id.number ≤ 8 := by
  cases id <;> decide

/-- Only the numbers 0 to 8 name a store (R159). -/
theorem StoreId.ofNumber_eq_none {n : Nat} (h : 8 < n) : StoreId.ofNumber n = none := by
  unfold StoreId.ofNumber
  split
  case h_10 => rfl
  all_goals omega

/-- A parameter byte that holds the number of a store names it. -/
theorem StoreId.ofNumber_of_byte {b : Byte} {id : StoreId} (h : b = BitVec.ofNat 8 id.number) :
    StoreId.ofNumber b.toNat = some id := by
  have hle := id.number_le
  have hnum : b.toNat = id.number := by
    rw [h, BitVec.toNat_ofNat]
    omega
  rw [hnum, StoreId.ofNumber_number]

/-- The count and the range of LOAD and READ BACK that pass the check (R161, R163). -/
theorem rangeFits_iff (id : StoreId) (first : BitVec 32) (count : Word) : rangeFits id first count = true ↔
    (1 ≤ count.toNat ∧ count.toNat ≤ 4096) ∧ first.toNat + count.toNat ≤ id.size := by
  simp only [rangeFits, Bool.and_eq_true, decide_eq_true_eq]
  rfl

/-- With a store number or a count out of range no store passes the check (R161, R163). -/
theorem rangeFits_eq_false_of_field {store : Byte} {count : Word} {id : StoreId} (first : BitVec 32)
    (h : 8 < store.toNat ∨ count = 0 ∨ 4096 < count.toNat) (hid : StoreId.ofNumber store.toNat = some id) :
    rangeFits id first count = false := by
  rw [Bool.eq_false_iff, ne_eq, rangeFits_iff]
  rintro ⟨⟨hpos, hle⟩, -⟩
  rcases h with hstore | rfl | hcount
  · rw [StoreId.ofNumber_eq_none hstore] at hid
    cases hid
  · exact absurd hpos (by decide)
  · omega

/-- A transfer that runs past the end of the store named fails the check (R161, R163). -/
theorem rangeFits_eq_false_of_size {n : Nat} {id k : StoreId} {first : BitVec 32} {count : Word}
    (hid : StoreId.ofNumber n = some id) (h : id.size < first.toNat + count.toNat)
    (hk : StoreId.ofNumber n = some k) : rangeFits k first count = false := by
  obtain rfl : id = k := Option.some.inj (hid.symm.trans hk)
  rw [Bool.eq_false_iff, ne_eq, rangeFits_iff]
  omega

/-- The copy field of READ BACK is 0 for the active and 1 for the shadow copy (R163). -/
theorem readCopy_of_le {b : Byte} (h : b.toNat ≤ 1) : readCopy b = some (decide (b = 0)) := by
  unfold readCopy
  split
  · next h0 => simp [h0]
  · next h0 => rw [if_pos (by bv_omega), decide_eq_false h0]

/-- Any other copy field is out of range (R163). -/
theorem readCopy_eq_none {b : Byte} (h : 1 < b.toNat) : readCopy b = none := by
  unfold readCopy
  rw [if_neg (by bv_omega), if_neg (by bv_omega)]

/-- A set of stores is out of range exactly if a bit above bit 8 is set (R164). -/
theorem extractLsb'_above_stores_ne_zero_iff (w : Word) : w.extractLsb' 9 7 ≠ 0 ↔ 512 ≤ w.toNat := by
  have hbits : (w.extractLsb' 9 7).toNat = w.toNat / 512 % 128 := by
    rw [BitVec.extractLsb'_toNat, Nat.shiftRight_eq_div_pow]
  bv_omega

/-- The set of stores in an APPLY names a store by the bit of its number (R164). -/
@[simp] theorem selects_extractLsb' (w : Word) (id : StoreId) :
    selects (w.extractLsb' 0 9) id = w.getLsbD id.number := by
  have hlt : id.number < 9 := Nat.lt_succ_of_le id.number_le
  simp [selects, hlt]

/-- A set of stores in range is reported as it was sent (R166). -/
theorem setWidth_extractLsb'_of_lt {w : Word} (h : w.toNat < 512) : (w.extractLsb' 0 9).setWidth 16 = w := by
  apply BitVec.eq_of_toNat_eq
  simp only [BitVec.toNat_setWidth, BitVec.extractLsb'_toNat, Nat.shiftRight_zero]
  omega

/-- The load engine is busy exactly if it is not IDLE (R158). -/
theorem StoreController.loadBusy_iff (c : StoreController) : c.loadBusy = true ↔ c.load ≠ .idle := by
  unfold StoreController.loadBusy
  cases c.load <;> simp

/-- The store that is being loaded is the one of the LOAD in execution (R162). -/
theorem StoreController.isLoading_iff (id : StoreId) (c : StoreController) :
    c.isLoading id = true ↔ ∃ j, c.load = .loading j ∧ j.store = id := by
  unfold StoreController.isLoading
  cases c.load <;> simp

/-- The pending APPLY names a store by the bit of its number (R161). -/
theorem StoreController.isPending_iff (id : StoreId) (c : StoreController) :
    c.isPending id = true ↔ ∃ a, c.pendingApply = some a ∧ a.selection.getLsbD id.number = true := by
  unfold StoreController.isPending
  cases c.pendingApply <;> simp [selects]

/-- An APPLY names the store being loaded by the bit of its number (R164). -/
theorem StoreController.loadsSelected_iff (w : Word) (c : StoreController) :
    c.loadsSelected (w.extractLsb' 0 9) = true ↔ ∃ j, c.load = .loading j ∧ w.getLsbD j.store.number = true := by
  unfold StoreController.loadsSelected
  cases c.load <;> simp

/-! ## LOAD (R161) -/

/-- A LOAD taken at a port that is ready is checked and started or refused. -/
theorem exec_load {s : State} {p : PortId} (x : LoadParams) (h : s.portReady p) :
    exec (.load p x) s = .next (load p x s) :=
  arrive_ready h.1 h.2

/-- The first checks of LOAD: without a store whose range fits it is refused. -/
theorem load_badParameter {x : LoadParams} (p : PortId) (s : State)
    (h : ∀ id, StoreId.ofNumber x.store.toNat = some id → rangeFits id x.first x.count = false) :
    load p x s = s.reject p codeLoad .badParameter := by
  unfold load
  split
  · rfl
  · next id hid => simp [h id hid]

/-- The later checks of LOAD, and its start, for a store whose range fits. -/
theorem load_of_fits {x : LoadParams} {id : StoreId} (p : PortId) (s : State)
    (hid : StoreId.ofNumber x.store.toNat = some id) (hfits : rangeFits id x.first x.count = true) :
    load p x s =
      if s.stores.loadBusy then s.reject p codeLoad .busy
      else if s.stores.isPending id then s.reject p codeLoad .pending
      else
        (s.onStores (fun c => { c with
          load := .loading { store := id, first := x.first, count := x.count.toNat, written := 0, port := p,
                             words := x.words } })).execute p .load := by
  simp [load, hid, hfits]

/-- Settles O48: each clause is one outcome of the checks. -/
theorem loadChecksAndStarts : Obligations.LoadChecksAndStarts := by
  intro s p x hready
  rw [exec_load x hready]
  refine ⟨fun hfield => ?_, fun id hstore hpos hcount => ?_⟩
  · rw [load_badParameter p s fun _ hid => rangeFits_eq_false_of_field x.first hfield hid]
    rfl
  have hid := StoreId.ofNumber_of_byte hstore
  refine ⟨fun hover => ?_, fun hin => ?_⟩
  · rw [load_badParameter p s fun _ hk => rangeFits_eq_false_of_size hid hover hk]
    rfl
  rw [load_of_fits p s hid ((rangeFits_iff ..).2 ⟨⟨hpos, hcount⟩, hin⟩)]
  refine ⟨fun hbusy => ?_, fun hidle => ?_⟩
  · rw [if_pos (s.stores.loadBusy_iff.2 hbusy)]
    rfl
  rw [if_neg fun hbusy => s.stores.loadBusy_iff.1 hbusy hidle]
  refine ⟨fun a ha hsel => ?_, fun hfree => ?_⟩
  · rw [if_pos ((s.stores.isPending_iff id).2 ⟨a, ha, hsel⟩)]
    rfl
  · have hnone : ¬ s.stores.isPending id = true := by
      rw [s.stores.isPending_iff]
      rintro ⟨a, ha, hsel⟩
      simp [hfree a ha] at hsel
    rw [if_neg hnone]
    rfl

/-! ## READ BACK (R163) -/

/-- A READ BACK taken at a port that is ready is answered at once. -/
theorem exec_readBack {s : State} {p : PortId} (x : ReadBackParams) (h : s.portReady p) :
    exec (.readBack p x) s = .next (readBack p x s) :=
  arrive_ready h.1 h.2

/-- The first checks of READ BACK: without a copy, or without a store whose range fits, it is refused. -/
theorem readBack_badParameter {x : ReadBackParams} (p : PortId) (s : State)
    (h : ∀ id, StoreId.ofNumber x.store.toNat = some id → readCopy x.copy ≠ none →
      rangeFits id x.first x.count = false) :
    readBack p x s = s.reject p codeReadBack .badParameter := by
  unfold readBack
  split
  · next id isActive hid hcopy => simp [h id hid (by simp [hcopy])]
  · rfl

/-- The last check of READ BACK, and its result, for a copy and a store whose range fits. -/
theorem readBack_of_fits {x : ReadBackParams} {id : StoreId} (p : PortId) (s : State)
    (hid : StoreId.ofNumber x.store.toNat = some id) (hcopy : x.copy.toNat ≤ 1)
    (hfits : rangeFits id x.first x.count = true) :
    readBack p x s =
      if x.copy ≠ 0 ∧ s.stores.isLoading id = true then s.reject p codeReadBack .busy
      else
        s.complete p codeReadBack
          (bytes16 s.stores.generation ++ [x.store, x.copy] ++ bytes32 x.first ++ bytes16 x.count ++
            ((List.range x.count.toNat).map (fun i => bytes16 (storeWord id
              ((if x.copy = 0 then s.stores.active else s.stores.shadow).get id) (x.first.toNat + i)))).flatten) := by
  simp [readBack, hid, readCopy_of_le hcopy, hfits, readWords, Function.comp_def]

/-- Settles O50: each clause is one outcome of the checks. -/
theorem readBackReturnsWords : Obligations.ReadBackReturnsWords := by
  intro s p x hready
  rw [exec_readBack x hready]
  refine ⟨fun hfield => ?_, fun id hstore hpos hcount hcopy => ?_⟩
  · rw [readBack_badParameter p s fun id hid hsome => ?_]
    · rfl
    · have hnotCopy : ¬ 1 < x.copy.toNat := fun hcopy => hsome (readCopy_eq_none hcopy)
      exact rangeFits_eq_false_of_field x.first (hfield.imp_right (Or.resolve_left · hnotCopy)) hid
  have hid := StoreId.ofNumber_of_byte hstore
  refine ⟨fun hover => ?_, fun hin => ?_⟩
  · rw [readBack_badParameter p s fun _ hk _ => rangeFits_eq_false_of_size hid hover hk]
    rfl
  rw [readBack_of_fits p s hid hcopy ((rangeFits_iff ..).2 ⟨⟨hpos, hcount⟩, hin⟩)]
  refine ⟨fun hshadow hloading => ?_, fun hfree => ?_⟩
  · rw [if_pos ⟨by simp [hshadow], (s.stores.isLoading_iff id).2 hloading⟩]
    rfl
  · have hread : ¬ (x.copy ≠ 0 ∧ s.stores.isLoading id = true) := by
      rintro ⟨hshadow, hloading⟩
      obtain ⟨j, hj, hjid⟩ := (s.stores.isLoading_iff id).1 hloading
      exact hfree.elim hshadow fun hother => hother j hj hjid
    rw [if_neg hread]
    rfl

/-! ## APPLY (R164 to R166) -/

/-- An APPLY taken at a port that is ready is refused, made to wait or taken. -/
theorem exec_apply {s : State} {p : PortId} (w : Word) (h : s.portReady p) :
    exec (.apply p w) s = .next (apply p w s) :=
  arrive_ready h.1 h.2

/-- APPLY with an empty set or a bit above bit 8 is refused (R164). -/
theorem apply_badParameter {w : Word} (p : PortId) (s : State) (h : w = 0 ∨ 512 ≤ w.toNat) :
    apply p w s = s.reject p codeApply .badParameter := by
  rw [apply, if_pos (h.imp_right (extractLsb'_above_stores_ne_zero_iff w).2)]

/-- The later checks of APPLY, its wait and its exchange, for a set in range. -/
theorem apply_of_range {w : Word} (p : PortId) (s : State) (hne : w ≠ 0) (hlt : w.toNat < 512) :
    apply p w s =
      if s.stores.pendingApply ≠ none ∨ s.stores.loadsSelected (w.extractLsb' 0 9) = true then
        s.reject p codeApply .busy
      else if s.cycleIsOpen then
        (s.onStores (fun c => { c with
          pendingApply := some { selection := w.extractLsb' 0 9, port := p } })).execute p .apply
      else takeApply (w.extractLsb' 0 9) p s := by
  have hrange : ¬ (w = 0 ∨ w.extractLsb' 9 7 ≠ 0) := by
    rw [extractLsb'_above_stores_ne_zero_iff]
    exact not_or.2 ⟨hne, Nat.not_le.2 hlt⟩
  rw [apply, if_neg hrange]
  cases s.stores.pendingApply <;> simp

/-- The exchange swaps the two copies of a store that the set names (R166). -/
theorem exchange_of_selected {selection : BitVec 9} {id : StoreId} (c : StoreController)
    (h : selects selection id = true) :
    (exchange selection c).active.get id = c.shadow.get id ∧ (exchange selection c).shadow.get id = c.active.get id := by
  simp [exchange, pick_get, h]

/-- The exchange keeps both copies of every other store (R166). -/
theorem exchange_of_not_selected {selection : BitVec 9} {id : StoreId} (c : StoreController)
    (h : selects selection id = false) :
    (exchange selection c).active.get id = c.active.get id ∧ (exchange selection c).shadow.get id = c.shadow.get id := by
  simp [exchange, pick_get, h]

/-- An APPLY taken makes the exchange in the store controller (R166). -/
@[simp] theorem takeApply_stores (selection : BitVec 9) (p : PortId) (s : State) :
    (takeApply selection p s).stores = exchange selection s.stores := rfl

/-- Outside the store controller an APPLY taken changes its port's result alone (R166). -/
theorem takeApply_frame (selection : BitVec 9) (p : PortId) (s : State) :
    { takeApply selection p s with stores := s.stores } = s.complete p codeApply
      (bytes16 (selection.setWidth 16) ++ bytes16 (s.stores.generation + 1)) := rfl

/-- Settles O51: each clause is one outcome of the checks, and the one with no cycle open is the exchange. -/
theorem applyExchangesOrWaits : Obligations.ApplyExchangesOrWaits := by
  intro s p w hready
  rw [exec_apply w hready]
  refine ⟨fun hbad => by rw [apply_badParameter p s hbad]; rfl, fun hne hlt => ?_⟩
  rw [apply_of_range p s hne hlt]
  have hloads := s.stores.loadsSelected_iff w
  refine ⟨fun hbusy => by rw [if_pos (hbusy.imp_right hloads.2)]; rfl, fun hnone hfree => ?_⟩
  have haccepted : ¬ (s.stores.pendingApply ≠ none ∨ s.stores.loadsSelected (w.extractLsb' 0 9) = true) := by
    rintro (hpending | hloading)
    · exact hpending hnone
    · obtain ⟨j, hj, hsel⟩ := hloads.1 hloading
      simp [hfree j hj] at hsel
  rw [if_neg haccepted]
  refine ⟨fun hopen => by rw [if_pos hopen]; rfl, fun hclosed => ?_⟩
  rw [if_neg (by simp [hclosed])]
  refine ⟨takeApply (w.extractLsb' 0 9) p s, rfl, ?_⟩
  rw [takeApply_frame, takeApply_stores, setWidth_extractLsb'_of_lt hlt]
  exact ⟨rfl, rfl, hnone, fun id hsel => exchange_of_selected s.stores (by rw [selects_extractLsb', hsel]),
    fun id hsel => exchange_of_not_selected s.stores (by rw [selects_extractLsb', hsel]), rfl⟩

end Sys2Proof.Machine

/-!
SUPPORT. SENSE EVENT (R182): the bytes of an event's subject as 13.5 lays them out, kind by kind, and the one change that
the command makes, which is of its own port.
-/
namespace Sys2Proof.Machine

/-! ## The bytes of an event (13.5) -/

/-- A count is sent high byte first (R199). -/
theorem count16_eq (n : Nat) : count16 n = [BitVec.ofNat 8 (n / 256), BitVec.ofNat 8 n] := by
  have hhigh : (BitVec.ofNat 16 n).extractLsb' 8 8 = BitVec.ofNat 8 (n / 256) := by
    apply BitVec.eq_of_toNat_eq
    simp only [BitVec.extractLsb'_toNat, BitVec.toNat_ofNat, Nat.shiftRight_eq_div_pow]
    omega
  have hlow : (BitVec.ofNat 16 n).extractLsb' 0 8 = BitVec.ofNat 8 n := by
    apply BitVec.eq_of_toNat_eq
    simp [BitVec.extractLsb'_toNat]
  rw [count16, bytes16, hhigh, hlow]

/-- A REQUEST cause is 10h for port A and 11h for port B. -/
theorem LoopCause.code_request (q : PortId) : (LoopCause.request q).code = if q = .A then 0x10 else 0x11 := by
  cases q <;> rfl

/-- A RESET cause is 20h for port A and 21h for port B. -/
theorem LoopCause.code_reset (q : PortId) : (LoopCause.reset q).code = if q = .A then 0x20 else 0x21 := by
  cases q <;> rfl

/-- A slot's trip cause is 30h and the slot, as one sum. -/
theorem TripCause.code_slot (l : LinkId) : (TripCause.slot l).code = BitVec.ofNat 8 (0x30 + l.val) :=
  (BitVec.ofNat_add ..).symm

/-- A board's trip cause is 38h and the board, as one sum. -/
theorem TripCause.code_board (b : BoardId) : (TripCause.board b).code = BitVec.ofNat 8 (0x38 + b.val) :=
  (BitVec.ofNat_add ..).symm

/-- The subject bytes of a LOOP-CHANGE by request: no additional causes. -/
theorem EventSubject.bytes_request (x y : LoopState) (q : PortId) :
    (EventSubject.loopChange x y (.request q)).bytes = [3, x.code, y.code, if q = .A then 0x10 else 0x11, 0] := by
  rw [← LoopCause.code_request]
  rfl

/-- The subject bytes of a LOOP-CHANGE by reset: no additional causes. -/
theorem EventSubject.bytes_reset (x y : LoopState) (q : PortId) :
    (EventSubject.loopChange x y (.reset q)).bytes = [3, x.code, y.code, if q = .A then 0x20 else 0x21, 0] := by
  rw [← LoopCause.code_reset]
  rfl

/-- The subject bytes of a LOOP-CHANGE by trip. -/
theorem EventSubject.bytes_trip (x y : LoopState) (c : TripCause) (n : Nat) :
    (EventSubject.loopChange x y (.trip c n)).bytes = [3, x.code, y.code, c.code, BitVec.ofNat 8 n] := rfl

/-- The subject bytes of an OFFLOAD-READY: the window, high byte first. -/
theorem EventSubject.bytes_offloadReady (c : Counter) (n : Nat) :
    (EventSubject.offloadReady c n).bytes = [5, BitVec.ofNat 8 (n / 256), BitVec.ofNat 8 n, 0, 0] := by
  rw [EventSubject.bytes, count16_eq]
  rfl

/-! ## SENSE EVENT (R182) -/

/-- A SENSE EVENT taken at a port that is ready is answered at once. -/
theorem exec_senseEvent {s : State} {p : PortId} (h : s.portReady p) :
    exec (.senseEvent p) s = .next (senseEvent p s) :=
  arrive_ready h.1 h.2

/-- SENSE EVENT changes its own port alone: it drops the queue's head, clears the lost count and puts both in the result. -/
theorem senseEvent_eq_onPort (p : PortId) (s : State) :
    senseEvent p s = s.onPort p (fun q =>
      { q with
        queue := q.queue.tail
        lost := 0
        activity := .result
          { code := 0x41, cls := .complete, reason := .none, data := senseData q.queue.head? q.lost } 0 }) := by
  rw [senseEvent, State.complete, State.answer, onPort_onPort]
  exact onPort_congr _ _ _ _ rfl

/-- Settles O41: with the queue's head known, the one change of the port is the stated one; the subject bytes agree with
those of 13.5 kind by kind. -/
theorem senseEventTakesOldest : Obligations.SenseEventTakesOldest := by
  intro s p hready
  rw [exec_senseEvent hready, senseEvent_eq_onPort]
  refine ⟨fun e rest loopCode subject hqueue hloop hsubject => ?_, fun hqueue => ?_⟩
  · have hcode : loopCode = LoopState.code := by
      rw [hloop]
      funext x
      cases x <;> rfl
    have hbytes : subject = e.subject.bytes := by
      rw [hsubject, hcode]
      cases e.subject with
      | linkChange l x => cases x <;> rfl
      | slotChange l x => cases x <;> rfl
      | boardChange b x n => cases x <;> rfl
      | offloadReady c n => exact (EventSubject.bytes_offloadReady c n).symm
      | loopChange x y cause =>
        cases cause with
        | request q => exact (EventSubject.bytes_request x y q).symm
        | reset q => exact (EventSubject.bytes_reset x y q).symm
        | trip c n =>
          rw [EventSubject.bytes_trip]
          cases c with
          | slot l => rw [TripCause.code_slot]
          | board b => rw [TripCause.code_board]
    exact congrArg _ (onPort_congr _ _ _ _ (by simp [hqueue, hbytes, senseData]))
  · exact congrArg _ (onPort_congr _ _ _ _ (by simp [hqueue, senseData]))

end Sys2Proof.Machine

/-!
SUPPORT. READ OFFLOAD (R197): what it does when the mailbox holds a record and when it is empty, in the bytes of 13.7.
-/
namespace Sys2Proof.Machine

/-! ## Changes of the offload unit -/

/-- Changes of the offload unit that agree on what it holds agree. -/
theorem onOffload_congr {s : State} {f g : OffloadUnit → OffloadUnit} (h : f s.offload = g s.offload) :
    s.onOffload f = s.onOffload g := by
  simp [State.onOffload, h]

/-- A change of the offload unit that keeps what it holds leaves the state as it was. -/
theorem onOffload_of_fixed {s : State} {f : OffloadUnit → OffloadUnit} (h : f s.offload = s.offload) :
    s.onOffload f = s := by
  rw [State.onOffload, h]

/-! ## READ OFFLOAD (R197) -/

/-- A READ OFFLOAD taken at a port that is ready is answered at once. -/
theorem exec_readOffload {s : State} {p : PortId} (h : s.portReady p) :
    exec (.readOffload p) s = .next (readOffload p s) :=
  arrive_ready h.1 h.2

/-- With a record in the mailbox, the flag is returned as it stood and then cleared; the record stays. -/
theorem readOffload_of_record {s : State} {r : OffloadRecord} (p : PortId) (h : s.offload.mailbox = some r) :
    readOffload p s = (s.onOffload (fun o => { o with fresh := false })).complete p codeReadOffload
      (offloadData (some r) s.offload.fresh) := by
  have hclear : s.onOffload (fun o => { o with fresh := if o.mailbox.isSome then false else o.fresh }) =
      s.onOffload (fun o => { o with fresh := false }) :=
    onOffload_congr (by simp [h])
  rw [readOffload, hclear, h]

/-- With the mailbox empty, the answer is empty and the offload unit keeps all it holds. -/
theorem readOffload_of_empty {s : State} (p : PortId) (h : s.offload.mailbox = none) :
    readOffload p s = s.complete p codeReadOffload (offloadData none s.offload.fresh) := by
  have hflag : (if s.offload.mailbox.isSome then false else s.offload.fresh) = s.offload.fresh := by simp [h]
  have hkeep : s.onOffload (fun o => { o with fresh := if o.mailbox.isSome then false else o.fresh }) = s :=
    onOffload_of_fixed (by simp only [hflag])
  rw [readOffload, hkeep, h]

/-- Settles O42: the two clauses are the two contents of the mailbox. -/
theorem readOffloadReturnsMailbox : Obligations.ReadOffloadReturnsMailbox := by
  intro s p hready
  rw [exec_readOffload hready]
  refine ⟨fun r hrecord => ?_, fun hempty => ?_⟩
  · rw [readOffload_of_record p hrecord]
    rfl
  · rw [readOffload_of_empty p hempty]
    rfl

end Sys2Proof.Machine

/-!
SUPPORT. One step: every command has a next state, what a command does while no reset acts, and the rows of the masters'
commands as the records they stand for.
-/
namespace Sys2Proof.Machine

/-! ## Every command has a next state -/

/-- Log 26: no command ends in a fault or a refusal. -/
theorem exec_next (c : Instr) (s : State) : ∃ t, exec c s = .next t := by
  cases c <;> exact ⟨_, rfl⟩

/-- A step with a command waiting runs it on the rest of the queue. -/
theorem step_of_waiting {s : State} {c : Instr} {rest : List Instr} (h : s.pending = c :: rest) :
    step s = exec c { s with pending := rest } := by
  simp [step, h]

/-- A step with no command waiting idles (log 1). -/
theorem step_of_empty {s : State} (h : s.pending = []) : step s = .next s := by
  simp [step, h]

/-- Settles O1: the two cases of the queue. -/
theorem stepRunsFrontCommand : Obligations.StepRunsFrontCommand :=
  ⟨fun _ _ _ h => step_of_waiting h, fun _ h => step_of_empty h⟩

/-! ## What a command does while no reset acts -/

/-- A TIMEBASE_TICK as a function of the state. -/
def tick (s : State) : State :=
  { s with
    line := { s.line with measuring := Timer.tick s.line.measuring }
    manager := { s.manager with
      timebase := s.manager.timebase + 1
      lineDelay := Timer.tick s.manager.lineDelay
      period := Timer.tick s.manager.period
      deadline := Timer.tick s.manager.deadline
      fallback := Timer.tick s.manager.fallback }
    mirror := { s.mirror with activity := s.mirror.activity.tick } }

/-- A change of the raw level as a function of the state (R8). -/
def invertRaw (s : State) : State := { s with line := { s.line with raw := !s.line.raw } }

/-- The filtered level follows the raw level (log 5). -/
def followRaw (s : State) : State := { s with line := { s.line with filtered := s.line.raw, measuring := none } }

/-- The effect of a command while no reset acts. A row of a master's command is the arrival of its record (log 8). -/
def whenRunning (c : Instr) : State → State :=
  match c with
  | .powerOnReset => powerOnReset
  | .linkStartSymbol l => linkSymbol l .start
  | .linkDataSymbol l w => linkSymbol l (.data w)
  | .linkEndSymbol l => linkSymbol l .fin
  | .linkFillSymbol l => linkSymbol l .fill
  | .linkInvalidSymbol l => linkSymbol l .invalid
  | .timingLineChange => fun s => startMeasuring (invertRaw s)
  | .lineFilterExpiry => fun s => if Timer.isDue s.line.measuring then filterTakes s else s
  | .lineDelayExpiry => fun s =>
    if Timer.isDue s.manager.lineDelay then produceTrigger .line (s.onManager (fun m => { m with lineDelay := none }))
    else s
  | .periodExpiry => fun s =>
    if Timer.isDue s.manager.period then
      produceTrigger .timer (s.onManager (fun m => { m with period := Timer.start m.settings.period }))
    else s
  | .fallbackExpiry => fun s =>
    if Timer.isDue s.manager.fallback && s.manager.state == .armed then
      openCycle .fallback false
        (s.onManagerCounters (fun c => { c with fallbackOpens := Counter.increase c.fallbackOpens }))
    else s
  | .deadlineExpiry => fun s =>
    if Timer.isDue s.manager.deadline && s.manager.state == .gathering then deadlineClose s else s
  | .groupOperationEnd => groupOperationEnd
  | .closeComputationEnd => closeComputationEnd
  | .addressSent => fun s => s.onMirror addressSent
  | .boardReady => fun s => s.onMirror boardReady
  | .boardBusy => fun s => s.onMirror boardBusy
  | .readyTimeout => readyTimeout
  | .blockSent => fun s => s.onMirror blockSent
  | .boardAck => boardAnswer .acked
  | .boardNak => boardAnswer .naked
  | .ackTimeout => ackTimeout
  | .gapEnd => fun s => s.onMirror gapEnd
  | .telemetryGo => fun s => s.onCapture (fun c => { c with flow := .go })
  | .telemetryHold => fun s => s.onCapture (fun c => { c with flow := .hold })
  | .telemetrySymbolSent => fun s => s.onCapture (fun c => c.finishSymbol.chooseSymbol)
  | .portSelect p => fun s => s.onPort p Port.select
  | .transactionByte p b => fun s => s.onPort p (Port.takeTransactionByte b)
  | .commandByte p b => commandByte p b
  | .resultByte p => resultByte p
  | .portDeselect p => fun s => s.onPort p (fun q => { q with transaction := none })
  | .unknownCommand p code => State.arrive p (unknownCommand p code)
  | .getStatus p => State.arrive p (runCommand p .getStatus)
  | .readCounters p x => State.arrive p (runCommand p (.readCounters x))
  | .setGeometry p x => State.arrive p (runCommand p (.setGeometry x))
  | .setTiming p x => State.arrive p (runCommand p (.setTiming x))
  | .setSlot p x => State.arrive p (runCommand p (.setSlot x))
  | .setMirror p x => State.arrive p (runCommand p (.setMirror x))
  | .setProbe p x => State.arrive p (runCommand p (.setProbe x))
  | .setCapture p x => State.arrive p (runCommand p (.setCapture x))
  | .setOffload p x => State.arrive p (runCommand p (.setOffload x))
  | .load p x => State.arrive p (runCommand p (.load x))
  | .loadWordWrite => loadWordWrite
  | .readBack p x => State.arrive p (runCommand p (.readBack x))
  | .apply p x => State.arrive p (runCommand p (.apply x))
  | .loopStart p => State.arrive p (runCommand p (.loop 1))
  | .loopClose p => State.arrive p (runCommand p (.loop 2))
  | .loopFreeze p => State.arrive p (runCommand p (.loop 3))
  | .loopOpen p => State.arrive p (runCommand p (.loop 4))
  | .loopStop p => State.arrive p (runCommand p (.loop 5))
  | .readOffload p => State.arrive p (runCommand p .readOffload)
  | .senseEvent p => State.arrive p (runCommand p .senseEvent)
  | .resetPart p => State.arrive p (runCommand p .resetPart)
  | .timebaseTick => tick
  | .resetEnd => resetEnd

/-- The four commands that have an effect while the reset acts (log 5). -/
def actsInReset (c : Instr) : Bool :=
  c == .powerOnReset || c == .resetEnd || c == .timebaseTick || c == .timingLineChange

/-- Every command but the four of log 5 has its effect only while no reset acts. -/
theorem exec_eq_unlessReset (c : Instr) (s : State) (h : actsInReset c = false) :
    exec c s = s.unlessReset (whenRunning c) := by
  cases c <;> first | rfl | exact Bool.noConfusion h

/-- While no reset acts, a command has its effect. -/
theorem exec_running (c : Instr) {s : State} (h : s.resetActs = false) : exec c s = .next (whenRunning c s) := by
  cases hc : actsInReset c with
  | false => rw [exec_eq_unlessReset c s hc, unlessReset_running h]
  | true =>
    simp only [actsInReset, Bool.or_eq_true, beq_iff_eq] at hc
    rcases hc with ((rfl | rfl) | rfl) | rfl
    · rfl
    · rfl
    · rfl
    · exact congrArg Host.Outcome.next (if_neg (by simp [h]))

/-- While the reset acts, a command but the four of log 5 changes nothing. -/
theorem exec_underReset (c : Instr) {s : State} (h : s.resetActs = true) (hc : actsInReset c = false) :
    exec c s = .next s := by
  rw [exec_eq_unlessReset c s hc, unlessReset_resetActs h]

/-- Settles O3: the four commands excepted are the ones that act in the reset. -/
theorem resetSuspendsCommands : Obligations.ResetSuspendsCommands := by
  intro c s h hpower hend htick hline
  exact exec_underReset c h (by simp [actsInReset, hpower, hend, htick, hline])

end Sys2Proof.Machine

/-!
SUPPORT. What every event keeps. `KeepsData` says that the bounds and the canonical form of the arrays carry over from one
state to the next, `KeepsControl` that the states of the cycle manager, the loop, the load engine and the executing ports
do. An invariant closed under changes that keep both and under the few operations that move the control states is kept by
every step (`EventClosed.step`).
-/
namespace Sys2Proof.Machine

/-! ## The two relations -/

/-- The bounds of O56 and the canonical form of O57 carry over from `s` to `t`. -/
structure KeepsData (s t : State) : Prop where
  queues : ∀ p, (s.ports.get p).queue.length ≤ 16 → (t.ports.get p).queue.length ≤ 16
  telemetry : (s.capture.fifo.map List.length).sum ≤ 65536 → (t.capture.fifo.map List.length).sum ≤ 65536
  staging : ∀ l, fifoGroups (s.receivers.get l).fifo ≤ 64 → fifoGroups (t.receivers.get l).fifo ≤ 64
  ages : ∀ l, (s.slots.get l).agesBounded → (t.slots.get l).agesBounded
  memory : s.memoryWf = true → t.memoryWf = true

/-- The states of the cycle manager, the loop, the load engine and the executing ports are those of `s` in `t`. -/
structure KeepsControl (s t : State) : Prop where
  state : t.manager.state = s.manager.state
  closing : t.manager.openRecord.map OpenRecord.closing = s.manager.openRecord.map OpenRecord.closing
  working : t.command.working.isSome = s.command.working.isSome
  loop : t.loop = s.loop
  pendingApply : t.stores.pendingApply = s.stores.pendingApply
  load : t.stores.load = s.stores.load
  executing : ∀ p c, (t.ports.get p).activity = .executing c ↔ (s.ports.get p).activity = .executing c

/-- A change that moves neither the data out of bounds nor the control states. -/
structure Calm (s t : State) : Prop where
  data : KeepsData s t
  control : KeepsControl s t

theorem KeepsData.refl (s : State) : KeepsData s s := ⟨fun _ h => h, id, fun _ h => h, fun _ h => h, id⟩

theorem KeepsData.trans {s t u : State} (h : KeepsData s t) (k : KeepsData t u) : KeepsData s u :=
  ⟨fun p x => k.queues p (h.queues p x), fun x => k.telemetry (h.telemetry x), fun l x => k.staging l (h.staging l x),
    fun l x => k.ages l (h.ages l x), fun x => k.memory (h.memory x)⟩

theorem KeepsControl.refl (s : State) : KeepsControl s s := ⟨rfl, rfl, rfl, rfl, rfl, rfl, fun _ _ => Iff.rfl⟩

theorem KeepsControl.trans {s t u : State} (h : KeepsControl s t) (k : KeepsControl t u) : KeepsControl s u :=
  ⟨k.state.trans h.state, k.closing.trans h.closing, k.working.trans h.working, k.loop.trans h.loop,
    k.pendingApply.trans h.pendingApply, k.load.trans h.load, fun p c => (k.executing p c).trans (h.executing p c)⟩

theorem Calm.refl (s : State) : Calm s s := ⟨.refl s, .refl s⟩

theorem Calm.trans {s t u : State} (h : Calm s t) (k : Calm t u) : Calm s u :=
  ⟨h.data.trans k.data, h.control.trans k.control⟩

/-- The members of `ls` in turn, each calm, are calm together. -/
theorem Calm.forLinks {f : LinkId → State → State} (h : ∀ l s, Calm s (f l s)) (ls : List LinkId) (s : State) :
    Calm s (forLinks f ls s) := by
  induction ls generalizing s with
  | nil => exact .refl s
  | cons l ls ih => exact (h l s).trans (ih (f l s))

/-- The members of `ls` in turn, each keeping the data, keep the data together. -/
theorem KeepsData.forLinks {f : LinkId → State → State} (h : ∀ l s, KeepsData s (f l s)) (ls : List LinkId) (s : State) :
    KeepsData s (forLinks f ls s) := by
  induction ls generalizing s with
  | nil => exact .refl s
  | cons l ls ih => exact (h l s).trans (ih (f l s))

/-! ## The canonical form, block by block -/

theorem memoryWf_iff (s : State) : s.memoryWf = true ↔ s.stores.active.wf = true ∧ s.stores.shadow.wf = true ∧
    s.engine.memoryWf = true ∧ s.command.memoryWf = true ∧ s.mirror.memoryWf = true := by
  simp only [State.memoryWf, Bool.and_eq_true, and_assoc]

theorem cellsWf_iff {w : Nat} (q : Quad (Cells w)) : Quad.cellsWf q = true ↔ ∀ l, Cells.wf zeroCell (q.get l) = true := by
  simp only [Quad.cellsWf, Bool.and_eq_true, and_assoc]
  exact (Quad.forall_iff (P := fun l => Cells.wf zeroCell (q.get l) = true)).symm

theorem Stores.wf_iff (c : Stores) : c.wf = true ↔ ∀ id : StoreId, Cells.wf id.powerOn (c.get id) = true := by
  simp only [Stores.wf, Bool.and_eq_true]
  constructor
  · rintro ⟨⟨⟨⟨⟨⟨⟨⟨h0, h1⟩, h2⟩, h3⟩, h4⟩, h5⟩, h6⟩, h7⟩, h8⟩ id
    cases id <;> assumption
  · intro h
    exact ⟨⟨⟨⟨⟨⟨⟨⟨h .matrix, h .refslopes⟩, h .offsets⟩, h .limits⟩, h .gains⟩, h .groupmap⟩, h .neighbours⟩, h .probes⟩,
      h .offloadvec⟩

theorem Engine.memoryWf_iff (e : Engine) : e.memoryWf = true ↔
    (∀ l, Cells.wf zeroCell (e.fresh.get l) = true) ∧ (∀ l, Cells.wf zeroCell (e.held.get l) = true) ∧
      Cells.wf zeroCell e.residuals = true ∧ ∀ o, e.inFlight = some o → Cells.wf zeroCell o.sums = true := by
  simp only [Engine.memoryWf, Bool.and_eq_true, cellsWf_iff, Option.all_eq_true, and_assoc]

/-! ## Changes of one block -/

/-- A change of the manager that keeps its state and whether the open record is closing is calm. -/
theorem calm_onManager {s : State} {f : Manager → Manager} (hs : (f s.manager).state = s.manager.state)
    (hc : (f s.manager).openRecord.map OpenRecord.closing = s.manager.openRecord.map OpenRecord.closing) :
    Calm s (s.onManager f) :=
  ⟨⟨fun _ h => h, id, fun _ h => h, fun _ h => h, id⟩, ⟨hs, hc, rfl, rfl, rfl, rfl, fun _ _ => Iff.rfl⟩⟩

theorem calm_onManagerCounters (f : ManagerCounters → ManagerCounters) (s : State) :
    Calm s (s.onManagerCounters f) :=
  calm_onManager rfl rfl

/-- A change of the receivers that keeps the bound of every staging FIFO is calm. -/
theorem calm_receivers {s : State} {q : Quad Receiver}
    (h : ∀ l, fifoGroups (s.receivers.get l).fifo ≤ 64 → fifoGroups (q.get l).fifo ≤ 64) :
    Calm s { s with receivers := q } :=
  ⟨⟨fun _ h => h, id, h, fun _ h => h, id⟩, ⟨rfl, rfl, rfl, rfl, rfl, rfl, fun _ _ => Iff.rfl⟩⟩

theorem calm_onReceiver {l : LinkId} {s : State} {f : Receiver → Receiver}
    (h : fifoGroups (s.receivers.get l).fifo ≤ 64 → fifoGroups (f (s.receivers.get l)).fifo ≤ 64) :
    Calm s (s.onReceiver l f) := by
  refine calm_receivers fun k hk => ?_
  rw [quadModify_get]
  split
  · next hkl => subst hkl; exact h hk
  · exact hk

/-- A change of the slots that keeps the bounds of their ages and hold limits is calm. -/
theorem calm_slots {s : State} {q : Quad Slot} (h : ∀ l, (s.slots.get l).agesBounded → (q.get l).agesBounded) :
    Calm s { s with slots := q } :=
  ⟨⟨fun _ h => h, id, fun _ h => h, h, id⟩, ⟨rfl, rfl, rfl, rfl, rfl, rfl, fun _ _ => Iff.rfl⟩⟩

theorem calm_onSlot {l : LinkId} {s : State} {f : Slot → Slot}
    (h : (s.slots.get l).agesBounded → (f (s.slots.get l)).agesBounded) : Calm s (s.onSlot l f) := by
  refine calm_slots fun k hk => ?_
  rw [quadModify_get]
  split
  · next hkl => subst hkl; exact h hk
  · exact hk

/-- A change of the engine that keeps the canonical form of its arrays is calm. -/
theorem calm_onEngine {s : State} {f : Engine → Engine}
    (h : s.engine.memoryWf = true → (f s.engine).memoryWf = true) : Calm s (s.onEngine f) := by
  refine ⟨⟨fun _ h => h, id, fun _ h => h, fun _ h => h, ?_⟩, ⟨rfl, rfl, rfl, rfl, rfl, rfl, fun _ _ => Iff.rfl⟩⟩
  simp only [memoryWf_iff]
  rintro ⟨hactive, hshadow, hengine, hcommand, hmirror⟩
  exact ⟨hactive, hshadow, h hengine, hcommand, hmirror⟩

/-- A change of the mirror link that keeps the canonical form of its vectors is calm. -/
theorem calm_onMirror {s : State} {f : MirrorLink → MirrorLink}
    (h : s.mirror.memoryWf = true → (f s.mirror).memoryWf = true) : Calm s (s.onMirror f) := by
  refine ⟨⟨fun _ h => h, id, fun _ h => h, fun _ h => h, ?_⟩, ⟨rfl, rfl, rfl, rfl, rfl, rfl, fun _ _ => Iff.rfl⟩⟩
  simp only [memoryWf_iff]
  rintro ⟨hactive, hshadow, hengine, hcommand, hmirror⟩
  exact ⟨hactive, hshadow, hengine, hcommand, h hmirror⟩

/-- A change of the capture unit that keeps the bound of the telemetry FIFO is calm. -/
theorem calm_onCapture {s : State} {f : CaptureUnit → CaptureUnit}
    (h : (s.capture.fifo.map List.length).sum ≤ 65536 → ((f s.capture).fifo.map List.length).sum ≤ 65536) :
    Calm s (s.onCapture f) :=
  ⟨⟨fun _ h => h, h, fun _ h => h, fun _ h => h, id⟩, ⟨rfl, rfl, rfl, rfl, rfl, rfl, fun _ _ => Iff.rfl⟩⟩

theorem calm_onOffload (f : OffloadUnit → OffloadUnit) (s : State) : Calm s (s.onOffload f) :=
  ⟨⟨fun _ h => h, id, fun _ h => h, fun _ h => h, id⟩, ⟨rfl, rfl, rfl, rfl, rfl, rfl, fun _ _ => Iff.rfl⟩⟩

theorem calm_onProbe (f : ProbeGenerator → ProbeGenerator) (s : State) : Calm s (s.onProbe f) :=
  ⟨⟨fun _ h => h, id, fun _ h => h, fun _ h => h, id⟩, ⟨rfl, rfl, rfl, rfl, rfl, rfl, fun _ _ => Iff.rfl⟩⟩

theorem calm_line (x : TimingLine) (s : State) : Calm s { s with line := x } :=
  ⟨⟨fun _ h => h, id, fun _ h => h, fun _ h => h, id⟩, ⟨rfl, rfl, rfl, rfl, rfl, rfl, fun _ _ => Iff.rfl⟩⟩

/-- A change of the ports that keeps the bound of each queue and what each port executes is calm. -/
theorem calm_ports {s : State} {q : Pair Port}
    (hq : ∀ p, (s.ports.get p).queue.length ≤ 16 → (q.get p).queue.length ≤ 16)
    (hx : ∀ p c, (q.get p).activity = .executing c ↔ (s.ports.get p).activity = .executing c) :
    Calm s { s with ports := q } :=
  ⟨⟨hq, id, fun _ h => h, fun _ h => h, id⟩, ⟨rfl, rfl, rfl, rfl, rfl, rfl, hx⟩⟩

theorem calm_onPort {p : PortId} {s : State} {f : Port → Port}
    (hq : (s.ports.get p).queue.length ≤ 16 → (f (s.ports.get p)).queue.length ≤ 16)
    (hx : ∀ c, (f (s.ports.get p)).activity = .executing c ↔ (s.ports.get p).activity = .executing c) :
    Calm s (s.onPort p f) := by
  refine calm_ports (fun r hr => ?_) (fun r c => ?_) <;> rw [Pair.get_set] <;> split
  · next h => subst h; exact hq hr
  · exact hr
  · next h => subst h; exact hx c
  · exact Iff.rfl

/-- Posting an event keeps the bound of both queues and what the ports execute (R180). -/
theorem calm_post (x : EventSubject) (s : State) : Calm s (s.post x) :=
  calm_ports (fun p h => by rw [Pair.get_map]; exact takeEvent_bounded _ _ h)
    (fun p c => by rw [Pair.get_map, (takeEvent_keeps _ _).1])

/-- A port that takes a command executes none. -/
theorem not_executing_of_takesCommand {q : Port} (h : q.takesCommand = true) (c : ExecutingCommand) :
    q.activity ≠ .executing c := by
  intro hx
  simp [Port.takesCommand, hx] at h

/-- The result of a port that executes nothing is calm. -/
theorem calm_answer {s : State} {p : PortId} (h : ∀ c, (s.ports.get p).activity ≠ .executing c) (r : ResultRecord) :
    Calm s (s.answer p r) :=
  calm_onPort (fun hq => hq) (fun c => by simp [h c])

/-- A result keeps the data. -/
theorem answer_keepsData (p : PortId) (r : ResultRecord) (s : State) : KeepsData s (s.answer p r) := by
  refine ⟨fun q h => ?_, id, fun _ h => h, fun _ h => h, id⟩
  by_cases hqp : q = p
  · subst hqp; simpa [State.answer, State.onPort] using h
  · simpa [State.answer, State.onPort, Pair.get_set_ne _ _ hqp] using h

end Sys2Proof.Machine

/-!
SUPPORT. The calm operations: those of the receivers, the engine, the slots and the cycle manager that keep the data in
bounds and leave the control states alone.
-/
namespace Sys2Proof.Machine

/-! ## Groups in a staging FIFO -/

theorem fifoGroups_cons (e : FifoEntry) (rest : List FifoEntry) :
    fifoGroups (e :: rest) = e.groups.length + fifoGroups rest := by
  simp [fifoGroups]

theorem fifoGroups_append (xs ys : List FifoEntry) : fifoGroups (xs ++ ys) = fifoGroups xs + fifoGroups ys := by
  simp [fifoGroups]

theorem fifoGroups_dropLast_le (fifo : List FifoEntry) : fifoGroups fifo.dropLast ≤ fifoGroups fifo := by
  rcases fifo.eq_nil_or_concat with rfl | ⟨front, e, rfl⟩
  · exact Nat.le_refl _
  · simp [fifoGroups_append]

theorem fifoGroups_attachHead (fifo : List FifoEntry) : fifoGroups (attachHead fifo) = fifoGroups fifo := by
  cases fifo <;> simp [attachHead, fifoGroups_cons]

theorem fifoGroups_takeOldest_le (fifo : List FifoEntry) : fifoGroups (takeOldest fifo) ≤ fifoGroups fifo := by
  cases fifo with
  | nil => exact Nat.le_refl _
  | cons e rest =>
    rw [takeOldest, fifoGroups_cons]
    split
    · omega
    · simp [fifoGroups_cons]

/-- A change of the last entry changes the number of groups by that of its own. -/
theorem fifoGroups_modifyLast_le {f : FifoEntry → FifoEntry} {n : Nat}
    (h : ∀ e, (f e).groups.length ≤ e.groups.length + n) (fifo : List FifoEntry) :
    fifoGroups (modifyLast f fifo) ≤ fifoGroups fifo + n := by
  induction fifo using modifyLast.induct with
  | case1 => simp [modifyLast]
  | case2 e =>
    have := h e
    simp only [modifyLast, fifoGroups_cons]
    omega
  | case3 e e' rest ih =>
    rw [modifyLast, fifoGroups_cons, fifoGroups_cons]
    omega

theorem fifoGroups_verifyLast_le (fifo : List FifoEntry) : fifoGroups (verifyLast fifo) ≤ fifoGroups fifo := by
  unfold verifyLast
  split
  · exact Nat.zero_le _
  · split
    · exact fifoGroups_dropLast_le fifo
    · exact fifoGroups_modifyLast_le (f := fun e => { e with verified := true }) (n := 0) (fun _ => Nat.le_refl _) fifo

/-- Shortening the FIFO of a receiver keeps its bound. -/
theorem calm_withFewer {l : LinkId} {s : State} {fifo : List FifoEntry}
    (h : fifoGroups fifo ≤ fifoGroups (s.receivers.get l).fifo) :
    Calm s (s.onReceiver l (Receiver.withFewer fifo)) :=
  calm_onReceiver (fun hb => Nat.le_trans h hb)

theorem calm_count (l : LinkId) (f : ReceiverCounters → ReceiverCounters) (s : State) :
    Calm s (s.onReceiver l (Receiver.count f)) :=
  calm_onReceiver id

theorem calm_setReception (l : LinkId) (x : Reception) (s : State) : Calm s (setReception l x s) :=
  calm_onReceiver id

/-! ## The arrays of the engine -/

theorem memoryWf_attach (l : LinkId) (q : Word) (n : Nat) {e : Engine} (h : e.memoryWf = true) :
    (Engine.attach l q n e).memoryWf = true := by
  rw [Engine.memoryWf_iff] at h ⊢
  obtain ⟨hfresh, hheld, hres, hop⟩ := h
  refine ⟨fun k => ?_, hheld, hres, hop⟩
  simp only [Engine.attach, Quad.get_set]
  split
  · exact Cells.wf_nil _
  · exact hfresh k

theorem memoryWf_discard (l : LinkId) (base n : Nat) {e : Engine} (h : e.memoryWf = true) :
    (Engine.discard l base n e).memoryWf = true := by
  have hdrop : ∀ r, (Engine.discard.drop l base n e r).memoryWf = true := by
    intro r
    rw [Engine.memoryWf_iff] at h ⊢
    obtain ⟨hfresh, hheld, hres, hop⟩ := h
    refine ⟨fun k => ?_, hheld, Cells.wf_clearRange base n _ hres, fun o ho => ?_⟩
    · simp only [Engine.discard.drop, Quad.get_set]
      split
      · exact Cells.wf_nil _
      · exact hfresh k
    · obtain ⟨o', ho', rfl⟩ := Option.map_eq_some_iff.mp ho
      unfold voidFor
      split <;> exact hop o' ho'
  unfold Engine.discard
  split
  · exact h
  · split
    · exact h
    · exact hdrop _
    · exact hdrop _

theorem memoryWf_commit {o : Operation} {e : Engine} (h : e.memoryWf = true) : (Engine.commit o e).memoryWf = true := by
  rw [Engine.memoryWf_iff] at h ⊢
  obtain ⟨hfresh, hheld, hres, -⟩ := h
  refine ⟨fun k => ?_, hheld, Cells.wf_writeList _ _ _ _ hres, fun _ ho => by cases ho⟩
  simp only [Engine.commit, quadModify_get]
  split
  · exact Cells.wf_tabulate _ _
  · exact hfresh k

/-- Starting a group operation keeps the arrays: its sums are tabulated. -/
theorem memoryWf_startOperation (c : Stores) (n : Nat) (l : LinkId) (i j : Nat) (g : List Word) (p : LinkId) {e : Engine}
    (h : e.memoryWf = true) :
    ({ e with inFlight := some (groupOperation c n l i j g), pointer := p } : Engine).memoryWf = true := by
  rw [Engine.memoryWf_iff] at h ⊢
  obtain ⟨hfresh, hheld, hres, -⟩ := h
  refine ⟨hfresh, hheld, hres, fun o ho => ?_⟩
  cases ho
  exact Cells.wf_tabulate _ _

theorem memoryWf_engineClose (sel : Quad Selection) {e : Engine} (h : e.memoryWf = true) :
    (Engine.close sel e).memoryWf = true := by
  rw [Engine.memoryWf_iff] at h ⊢
  obtain ⟨hfresh, hheld, hres, hop⟩ := h
  refine ⟨hfresh, fun k => ?_, hres, hop⟩
  simp only [Engine.close, Quad.get_tabulate]
  split
  · exact hfresh k
  · exact hheld k

/-! ## Attachment, offers and the engine's choice -/

theorem calm_setStatus (l : LinkId) (x : AttachStatus) (s : State) : Calm s (setStatus l x s) :=
  calm_onManager rfl (by cases h : s.manager.openRecord <;> simp)

theorem calm_discardSlot (l : LinkId) (s : State) : Calm s (discardSlot l s) :=
  calm_onEngine (memoryWf_discard _ _ _)

theorem calm_reportAbandoned (l : LinkId) (s : State) : Calm s (reportAbandoned l s) := by
  unfold reportAbandoned
  split
  · exact (calm_setStatus _ _ _).trans (calm_discardSlot _ _)
  all_goals exact calm_discardSlot _ _

theorem calm_attach (l : LinkId) (e : FifoEntry) (s : State) : Calm s (attach l e s) :=
  ((calm_setStatus _ _ _).trans (calm_onReceiver (fun h => by rwa [fifoGroups_attachHead]))).trans
    (calm_onEngine (memoryWf_attach _ _ _))

theorem calm_offerHead (l : LinkId) (s : State) : Calm s (offerHead l s) := by
  unfold offerHead
  split
  · split
    · exact .refl s
    · exact calm_attach _ _ _
  · exact .refl s

theorem calm_takeGroup (l : LinkId) (s : State) : Calm s (takeGroup l s) := by
  unfold takeGroup
  split
  · exact .refl s
  · next e rest hf =>
    split
    · exact .refl s
    · refine ((calm_onEngine (memoryWf_startOperation _ _ _ _ _ _ _)).trans (calm_withFewer ?_)).trans
        (calm_offerHead _ _)
      rw [State.onEngine_receivers, hf]
      exact fifoGroups_takeOldest_le _

theorem calm_engineChoose (s : State) : Calm s (engineChoose s) := by
  unfold engineChoose
  split
  · exact .refl s
  · split
    · exact .refl s
    · exact calm_takeGroup _ _

theorem fifoGroups_abandonDeadline_le (r : Receiver) : fifoGroups r.abandonDeadline.fifo ≤ fifoGroups r.fifo := by
  unfold Receiver.abandonDeadline
  dsimp only
  split
  · exact Nat.le_refl _
  · next e rest hf =>
    split
    · show fifoGroups rest ≤ _
      rw [hf, fifoGroups_cons]
      omega
    · exact Nat.le_refl _

theorem calm_abandonAtDeadline (l : LinkId) (s : State) : Calm s (abandonAtDeadline l s) := by
  unfold abandonAtDeadline
  split
  · exact ((calm_onReceiver (Nat.le_trans (fifoGroups_abandonDeadline_le _))).trans (calm_discardSlot _ _)).trans
      (calm_setStatus _ _ _)
  all_goals exact .refl s

/-! ## Triggers, timers and settings of the cycle manager -/

theorem calm_latchTrigger (c : LatchedCause) (s : State) : Calm s (latchTrigger c s) := by
  unfold latchTrigger
  split
  · exact calm_onManager rfl rfl
  · exact calm_onManagerCounters _ _

theorem calm_startFallback (s : State) : Calm s (startFallback s) := by
  unfold startFallback
  split
  · exact .refl s
  · exact calm_onManager rfl rfl

theorem calm_dropLatch (s : State) : Calm s (dropLatch s) :=
  (calm_onManagerCounters _ _).trans (calm_onManager rfl rfl)

theorem calm_stopModeTimer (m : TriggerMode) (s : State) : Calm s (stopModeTimer m s) := by
  cases m
  · exact calm_onManager (f := fun m => { m with fallback := none }) rfl rfl
  · exact calm_onManager (f := fun m => { m with lineDelay := none }) rfl rfl
  · exact calm_onManager (f := fun m => { m with period := none }) rfl rfl

theorem calm_startPeriod (s : State) : Calm s (startPeriod s) := by
  unfold startPeriod
  split
  · exact calm_onManager rfl rfl
  · exact .refl s

theorem calm_changeMode (m : TriggerMode) (s : State) : Calm s (changeMode m s) := by
  unfold changeMode
  split
  · exact .refl s
  · exact ((calm_stopModeTimer _ _).trans (calm_dropLatch _)).trans (calm_startPeriod _)

/-! ## Reception -/

theorem calm_dropFrame (l : LinkId) (f : RxFrame) (s : State) : Calm s (dropFrame l f s) :=
  (calm_setReception _ _ _).trans (calm_count _ _ _)

theorem calm_applyOutOfCycle (l : LinkId) (f : RxFrame) (s : State) : Calm s (applyOutOfCycle l f s) := by
  unfold applyOutOfCycle
  split
  · exact .refl s
  · split
    · exact .refl s
    · exact (calm_onReceiver (Nat.le_trans (fifoGroups_dropLast_le _))).trans (calm_dropFrame _ _ _)

theorem calm_rejectFrame (l : LinkId) (f : ReceiverCounters → ReceiverCounters) (s : State) :
    Calm s (rejectFrame l f s) :=
  (calm_setReception _ _ _).trans (calm_count _ _ _)

/-- A FIFO that does not hold 64 groups holds at most 64 with one more (R33, R36). -/
theorem calm_appendGroup {l : LinkId} {s : State} (g : List Word) (h : fifoGroups (s.receivers.get l).fifo < 64) :
    Calm s (s.onReceiver l (Receiver.appendGroup g)) := by
  refine calm_onReceiver fun _ => Nat.le_trans (fifoGroups_modifyLast_le (n := 1) (fun e => ?_) _) h
  simp

theorem calm_linkUp (l : LinkId) (s : State) : Calm s (linkUp l s) := by
  unfold linkUp
  split
  · exact (calm_onReceiver id).trans (calm_post _ _)
  · exact .refl s

theorem calm_goodFrame (l : LinkId) (s : State) : Calm s (goodFrame l s) :=
  ((calm_setReception _ _ _).trans (calm_count _ _ _)).trans (calm_linkUp _ _)

theorem calm_declareLock (l : LinkId) (s : State) : Calm s (declareLock l s) :=
  (calm_onReceiver id).trans (calm_post _ _)

/-! ## Slots -/

theorem calm_muteSlot (l : LinkId) (s : State) : Calm s (muteSlot l s) := by
  unfold muteSlot
  split
  · exact (calm_onSlot id).trans (calm_post _ _)
  · exact .refl s

/-- An unmuted slot starts with an age over its hold limit, which is at most 15 (R58). -/
theorem calm_unmuteSlot (l : LinkId) (s : State) : Calm s (unmuteSlot l s) := by
  unfold unmuteSlot
  split
  · refine (calm_onSlot fun h => ?_).trans (calm_post _ _)
    obtain ⟨-, hlimit, hheld⟩ := h
    exact ⟨Nat.succ_le_succ hlimit, hlimit, hheld⟩
  · exact .refl s

theorem agesBounded_withPolicy {p : SlotPolicy} {x : Slot} (h : x.agesBounded) (hp : p.holdLimit ≤ 15) :
    (x.withPolicy p).agesBounded :=
  let ⟨hage, _, _⟩ := h
  ⟨hage, hp, fun _ hq => by cases hq⟩

theorem agesBounded_takeHeld {x : Slot} (h : x.agesBounded) : x.takeHeld.agesBounded := by
  obtain ⟨-, -, hheld⟩ := id h
  unfold Slot.takeHeld
  split
  · exact h
  · next p hp => exact agesBounded_withPolicy h (hheld p hp)

theorem agesBounded_withGeometry (g : Bool × Byte × Nat) {x : Slot} (h : x.agesBounded) :
    (x.withGeometry g).agesBounded := by
  obtain ⟨hage, hlimit, hheld⟩ := h
  unfold Slot.withGeometry
  dsimp only
  split
  · exact ⟨hage, hlimit, hheld⟩
  · split <;> exact ⟨Nat.zero_le _, hlimit, hheld⟩

theorem agesBounded_softReset {x : Slot} (h : x.agesBounded) : x.softReset.agesBounded := by
  obtain ⟨-, hlimit, hheld⟩ := agesBounded_takeHeld h
  exact ⟨Nat.zero_le _, hlimit, hheld⟩

theorem agesBounded_advance {x : Slot} (h : x.agesBounded) : x.advance.agesBounded := by
  unfold Slot.advance
  split <;> exact h

theorem olderAge_le {n : Nat} : olderAge n ≤ 16 := by
  unfold olderAge Config.maxAge
  split
  · next h => exact h
  · exact Nat.le_refl _

/-- The slot treatment of a close keeps the bounds of a slot (R56). -/
theorem agesBounded_closeSlot (st : Option AttachStatus) {x : Slot} (h : x.agesBounded) :
    (closeSlot st x).slot.agesBounded := by
  obtain ⟨hage, hlimit, hheld⟩ := h
  have hmiss : (missSlot x).slot.agesBounded := by
    unfold missSlot
    split_ifs
    · exact ⟨hage, hlimit, hheld⟩
    all_goals exact ⟨olderAge_le, hlimit, hheld⟩
  have harrive : (arriveSlot x).slot.agesBounded := by
    unfold arriveSlot
    split_ifs <;> exact ⟨Nat.zero_le _, hlimit, hheld⟩
  unfold closeSlot
  split
  · split
    · exact ⟨hage, hlimit, hheld⟩
    · exact harrive
    all_goals exact hmiss
  · exact ⟨hage, hlimit, hheld⟩

end Sys2Proof.Machine

/-!
SUPPORT. Invariants of every event, packaged once: a property that every calm change keeps, and that the operations which
move the control states keep, is kept by every event.
-/
namespace Sys2Proof.Machine

/-! ## The mirror link and the telemetry sender -/

theorem MirrorLink.memoryWf_iff (m : MirrorLink) : m.memoryWf = true ↔
    (∀ v, m.pendingVector = some v → Cells.wf zeroCell v.values = true) ∧
      ∀ w, m.activity.writeout = some w → Cells.wf zeroCell w.vector.values = true := by
  simp only [MirrorLink.memoryWf, Bool.and_eq_true, Option.all_eq_true]

/-- A mirror link that holds the vectors of another, or fewer, is as canonical. -/
theorem memoryWf_of_vectors {m n : MirrorLink} (h : m.memoryWf = true) (hp : n.pendingVector = m.pendingVector)
    (ha : ∀ w, n.activity.writeout = some w → ∃ x, m.activity.writeout = some x ∧ x.vector = w.vector) :
    n.memoryWf = true := by
  rw [MirrorLink.memoryWf_iff] at h ⊢
  obtain ⟨hpending, hwriteout⟩ := h
  refine ⟨by rwa [hp], fun w hw => ?_⟩
  obtain ⟨x, hx, hxw⟩ := ha w hw
  exact hxw ▸ hwriteout x hx

theorem memoryWf_addressSent {m : MirrorLink} (h : m.memoryWf = true) : (addressSent m).memoryWf = true := by
  unfold addressSent
  split
  · next w ha => exact memoryWf_of_vectors h rfl (fun x hx => ⟨w, by rw [ha]; rfl, by cases hx; rfl⟩)
  · exact h

theorem memoryWf_boardReady {m : MirrorLink} (h : m.memoryWf = true) : (boardReady m).memoryWf = true := by
  unfold boardReady
  split
  · next w r ha => exact memoryWf_of_vectors h rfl (fun x hx => ⟨w, by rw [ha]; rfl, by cases hx; rfl⟩)
  · exact h

theorem memoryWf_boardBusy {m : MirrorLink} (h : m.memoryWf = true) : (boardBusy m).memoryWf = true := by
  unfold boardBusy
  split
  · next w r ha =>
    split
    · exact memoryWf_of_vectors h rfl (fun x hx => ⟨w, by rw [ha]; rfl, by cases hx; rfl⟩)
    · exact h
  · exact h

theorem memoryWf_blockSent {m : MirrorLink} (h : m.memoryWf = true) : (blockSent m).memoryWf = true := by
  unfold blockSent
  split
  · next w ha => exact memoryWf_of_vectors h rfl (fun x hx => ⟨w, by rw [ha]; rfl, by cases hx; rfl⟩)
  · exact h

theorem memoryWf_startWriteout {v : DriveVector} {m : MirrorLink} (hv : Cells.wf zeroCell v.values = true)
    (h : m.memoryWf = true) : (startWriteout v m).memoryWf = true := by
  rw [MirrorLink.memoryWf_iff] at h ⊢
  exact ⟨h.1, fun w hw => by cases hw; exact hv⟩

theorem memoryWf_handOver {v : DriveVector} {m : MirrorLink} (hv : Cells.wf zeroCell v.values = true)
    (h : m.memoryWf = true) : (handOver v m).memoryWf = true := by
  unfold handOver
  split
  · exact memoryWf_startWriteout hv h
  · rw [MirrorLink.memoryWf_iff] at h
    obtain ⟨-, hwriteout⟩ := h
    split
    · exact (MirrorLink.memoryWf_iff _).mpr ⟨fun _ hx => by cases hx; exact hv, hwriteout⟩
    · exact (MirrorLink.memoryWf_iff _).mpr ⟨fun _ hx => by cases hx; exact hv, hwriteout⟩

theorem memoryWf_endWriteout (w : Writeout) {m : MirrorLink} (h : m.memoryWf = true) :
    (endWriteout w m).memoryWf = true := by
  rw [MirrorLink.memoryWf_iff] at h
  obtain ⟨hpending, hwriteout⟩ := h
  unfold endWriteout
  dsimp only
  split
  · next v hv =>
    exact memoryWf_startWriteout (hpending v hv) ((MirrorLink.memoryWf_iff _).mpr ⟨fun _ hx => (by cases hx), hwriteout⟩)
  · exact (MirrorLink.memoryWf_iff _).mpr ⟨hpending, fun _ hx => by cases hx⟩

theorem memoryWf_endGap {w : Writeout} {m : MirrorLink} (hw : Cells.wf zeroCell w.vector.values = true)
    (h : m.memoryWf = true) : (endGap w m).memoryWf = true := by
  unfold endGap
  split
  · rw [MirrorLink.memoryWf_iff] at h ⊢
    exact ⟨h.1, fun _ hx => by cases hx; exact hw⟩
  · exact memoryWf_endWriteout w h

theorem memoryWf_enterGap {w : Writeout} {m : MirrorLink} (hw : Cells.wf zeroCell w.vector.values = true)
    (h : m.memoryWf = true) : (enterGap w m).memoryWf = true := by
  unfold enterGap
  split
  · exact memoryWf_endGap hw h
  · rw [MirrorLink.memoryWf_iff] at h ⊢
    exact ⟨h.1, fun _ hx => by cases hx; exact hw⟩

theorem memoryWf_gapEnd {m : MirrorLink} (h : m.memoryWf = true) : (gapEnd m).memoryWf = true := by
  unfold gapEnd
  split
  · next w r ha =>
    split
    · exact memoryWf_endGap (((MirrorLink.memoryWf_iff _).mp h).2 w (by rw [ha]; rfl)) h
    · exact h
  · exact h

/-- The words a telemetry FIFO holds after one has been sent are no more (R192). -/
theorem level_sendWord_le (fifo : List (List Word)) :
    ((sendWord fifo).map List.length).sum ≤ (fifo.map List.length).sum := by
  cases fifo with
  | nil => exact Nat.le_refl _
  | cons r rest =>
    rw [sendWord]
    split
    · simp
    · simp

theorem calm_symbolSent (s : State) : Calm s (s.onCapture (fun c => c.finishSymbol.chooseSymbol)) := by
  refine calm_onCapture fun h => ?_
  have hchoose : ∀ c : CaptureUnit, c.chooseSymbol.fifo = c.fifo := by
    intro c
    unfold CaptureUnit.chooseSymbol
    split
    · rfl
    · split
      · split <;> rfl
      all_goals rfl
  rw [hchoose]
  unfold CaptureUnit.finishSymbol
  split
  · exact Nat.le_trans (level_sendWord_le _) h
  · exact h

/-! ## Other calm changes -/

theorem calm_pending (q : List Instr) (s : State) : Calm s { s with pending := q } :=
  ⟨⟨fun _ h => h, id, fun _ h => h, fun _ h => h, id⟩, ⟨rfl, rfl, rfl, rfl, rfl, rfl, fun _ _ => Iff.rfl⟩⟩

/-- The vector in flight stays while the timer of its phase runs. -/
theorem writeout_tick (a : LinkActivity) : a.tick.writeout = a.writeout := by
  cases a <;> rfl

theorem calm_tick (s : State) : Calm s (tick s) :=
  ((calm_line { s.line with measuring := Timer.tick s.line.measuring } s).trans
    (calm_onManager (f := fun m => { m with
      timebase := m.timebase + 1
      lineDelay := Timer.tick m.lineDelay
      period := Timer.tick m.period
      deadline := Timer.tick m.deadline
      fallback := Timer.tick m.fallback }) rfl rfl)).trans
    (calm_onMirror (f := fun m => { m with activity := m.activity.tick })
      (fun h => memoryWf_of_vectors h rfl fun w hw => ⟨w, (writeout_tick _).symm.trans hw, rfl⟩))

theorem calm_resetEnd (s : State) : Calm s (resetEnd s) := by
  unfold resetEnd
  split
  · refine (calm_receivers (q := s.receivers.map (fun r => { r with flow := .go })) fun l h => ?_).trans
      ⟨⟨fun _ h => h, id, fun _ h => h, fun _ h => h, id⟩, ⟨rfl, rfl, rfl, rfl, rfl, rfl, fun _ _ => Iff.rfl⟩⟩
    rw [Quad.get_map]
    exact h
  · exact .refl s

/-- The new number of actuators leaves the drive and integrator vectors as they are. -/
theorem calm_actuatorCount (n : Nat) (s : State) :
    Calm s { s with command := { s.command with actuatorCount := n } } :=
  ⟨⟨fun _ h => h, id, fun _ h => h, fun _ h => h, id⟩, ⟨rfl, rfl, rfl, rfl, rfl, rfl, fun _ _ => Iff.rfl⟩⟩

theorem calm_takeGeometry (n : Nat) (g : Quad (Bool × Byte × Nat)) (s : State) : Calm s (takeGeometry n g s) := by
  have hslots : Calm s { s with slots := withGeometry g s.slots } := by
    refine calm_slots fun l h => ?_
    rw [withGeometry, Quad.get_tabulate]
    exact agesBounded_withGeometry _ h
  refine (hslots.trans (calm_actuatorCount n _)).trans (Calm.forLinks (fun l u => ?_) links _)
  unfold postEnableChange
  split
  · exact .refl u
  · exact calm_post _ _

theorem calm_clearCounters (s : State) : Calm s (clearCounters s) := by
  refine ⟨⟨fun _ h => h, id, fun l h => ?_, fun _ h => h, id⟩, ⟨rfl, rfl, rfl, rfl, rfl, rfl, fun _ _ => Iff.rfl⟩⟩
  show fifoGroups ((s.receivers.map (fun r : Receiver => { r with counters := ReceiverCounters.zero })).get l).fifo ≤ 64
  rw [Quad.get_map]
  exact h

/-! ## Invariants of every event -/

/-- A property kept by every calm change and by the opening of a cycle. -/
structure OpeningClosed (P : State → Prop) : Prop where
  calm : ∀ {s t : State}, Calm s t → P s → P t
  openCycle : ∀ (c : OpenCause) (b : Bool) (s : State), s.manager.state = .armed → P s → P (openCycle c b s)

/-- A property kept besides by the close of a cycle and by a trip: what every event but those of the masters can do. -/
structure CycleClosed (P : State → Prop) : Prop extends OpeningClosed P where
  requestTrip : ∀ (c : TripCause) (s : State), P s → P (requestTrip c s)
  closeCycle : ∀ (c : CloseCause) (s : State), s.manager.state = .gathering → P s → P (closeCycle c s)

/-- A property kept besides by every operation of a boundary or a master's command that moves the control states. -/
structure EventClosed (P : State → Prop) : Prop extends CycleClosed P where
  closeComputationEnd : ∀ s : State, P s → P (closeComputationEnd s)
  loopStart : ∀ (p : PortId) (s : State), (s.ports.get p).takesCommand = true → P s → P (loopStart p s)
  loopRequest : ∀ (t : RequestTarget) (p : PortId) (s : State), (s.ports.get p).takesCommand = true → P s →
    P (loopRequest t p s)
  load : ∀ (p : PortId) (x : LoadParams) (s : State), (s.ports.get p).takesCommand = true → P s → P (load p x s)
  loadWordWrite : ∀ s : State, P s → P (loadWordWrite s)
  apply : ∀ (p : PortId) (x : Word) (s : State), (s.ports.get p).takesCommand = true → P s →
    P (Machine.apply p x s)
  resetPart : ∀ (p : PortId) (s : State), (s.ports.get p).takesCommand = true → P s → P (resetPart p s)
  powerOnReset : ∀ s : State, P s → P (powerOnReset s)

section
variable {P : State → Prop} (hP : OpeningClosed P)
include hP

/-! ### Opening a cycle, the timing line and the timing settings -/

theorem OpeningClosed.evalLead {s : State} (h : P s) : P (evalLead s) := by
  unfold Machine.evalLead
  split
  · next hlead =>
    simp only [leadCondition, Bool.and_eq_true, beq_iff_eq] at hlead
    obtain ⟨⟨⟨-, harmed⟩, -⟩, -⟩ := hlead
    exact hP.openCycle _ _ s harmed h
  · exact h

theorem OpeningClosed.afterDeparture {l : LinkId} {s : State} (h : P s) : P (afterDeparture l s) :=
  hP.calm (calm_engineChoose _) (hP.evalLead (hP.calm (calm_offerHead _ _) h))

theorem OpeningClosed.produceTrigger {c : LatchedCause} {s : State} (h : P s) : P (produceTrigger c s) := by
  unfold Machine.produceTrigger
  split
  · exact h
  · next hs => exact hP.openCycle _ _ s hs h
  all_goals exact hP.calm (calm_latchTrigger _ _) h

theorem OpeningClosed.filterTakes {s : State} (h : P s) : P (filterTakes s) := by
  have hline := hP.calm (calm_line { s.line with filtered := s.line.raw, measuring := none } s) h
  unfold Machine.filterTakes
  dsimp only
  split
  · exact hline
  · unfold filteredEdge
    split
    · unfold passEdge
      split
      · exact hP.calm (calm_onManagerCounters _ _) hline
      · split
        · exact hP.produceTrigger hline
        · exact hP.calm (calm_onManager rfl rfl) hline
    · exact hline

theorem OpeningClosed.startMeasuring {s : State} (h : P s) : P (startMeasuring s) := by
  unfold Machine.startMeasuring
  split_ifs
  · exact hP.calm (calm_line _ _) h
  · exact hP.filterTakes h
  · exact hP.calm (calm_line _ _) h

theorem OpeningClosed.applyTiming {t : TimingSettings} {s : State} (h : P s) : P (applyTiming t s) := by
  have hset : P (s.onManager (fun m => { m with settings := t, held := none })) := hP.calm (calm_onManager rfl rfl) h
  have hmode := hP.calm (calm_changeMode s.manager.settings.mode _) hset
  have hfilter : P (changeFilter s.manager.settings (changeMode s.manager.settings.mode
      (s.onManager (fun m => { m with settings := t, held := none })))) := by
    unfold changeFilter
    split
    · exact hP.startMeasuring hmode
    · exact hmode
  unfold Machine.applyTiming leadInForce
  dsimp only
  split
  · refine hP.evalLead ?_
    split
    · exact hP.calm (calm_startFallback _) hfilter
    · exact hfilter
  · exact hfilter

end

section
variable {P : State → Prop} (hP : CycleClosed P)
include hP

/-! ### Closing a cycle -/

theorem CycleClosed.closeIfComplete {s : State} (h : P s) : P (closeIfComplete s) := by
  unfold Machine.closeIfComplete
  split
  · next hs _ =>
    split
    · exact hP.closeCycle _ s hs h
    · exact h
  · exact h

theorem CycleClosed.reportVerified {l : LinkId} {s : State} (h : P s) : P (reportVerified l s) := by
  unfold Machine.reportVerified
  split
  · exact hP.closeIfComplete (hP.calm (calm_setStatus _ _ _) h)
  all_goals exact h

theorem CycleClosed.reportLastGroup {l : LinkId} {s : State} (h : P s) : P (reportLastGroup l s) := by
  unfold Machine.reportLastGroup
  split
  · exact hP.closeIfComplete (hP.calm (calm_setStatus _ _ _) h)
  all_goals exact h

theorem CycleClosed.deadlineClose {s : State} (hs : s.manager.state = .gathering) (h : P s) : P (deadlineClose s) := by
  have hcalm := (calm_onManagerCounters (fun c => { c with deadlineCloses := Counter.increase c.deadlineCloses }) s).trans
    (Calm.forLinks calm_abandonAtDeadline links _)
  exact hP.closeCycle _ _ (hcalm.control.state.trans hs) (hP.calm hcalm h)

/-! ### Link symbols -/

theorem CycleClosed.removeStored {l : LinkId} {s : State} (h : P s) : P (removeStored l s) := by
  have hfewer := hP.calm (calm_withFewer (l := l) (fifoGroups_dropLast_le (s.receivers.get l).fifo)) h
  unfold Machine.removeStored
  refine hP.afterDeparture ?_
  split
  · exact hP.calm (calm_reportAbandoned _ _) hfewer
  · exact hfewer

theorem CycleClosed.abandonInto {l : LinkId} {c : AbandonCause} {x : Reception} {s : State} (h : P s) :
    P (abandonInto l c x s) := by
  have hset := hP.calm (calm_setReception l x s) h
  have hcount := hP.calm (calm_count l (ReceiverCounters.abandon c) _) hset
  unfold Machine.abandonInto
  dsimp only
  split
  · exact hcount
  · exact hcount
  · exact hP.removeStored hcount
  all_goals exact hset

theorem CycleClosed.acceptData {l : LinkId} {f : RxFrame} {s : State} (h : P s) : P (acceptData l f s) := by
  have hseq : P (s.onReceiver l (fun r => { r with receivedSeq := f.sequence })) := hP.calm (calm_onReceiver id) h
  unfold Machine.acceptData
  dsimp only
  split
  · exact hP.calm (calm_dropFrame _ _ _) hseq
  · have hentry := hP.calm (calm_onReceiver (l := l) (f := fun r => { r with fifo := r.fifo ++ [newEntry f] })
      (fun hb => by simpa [fifoGroups_append, fifoGroups_cons, newEntry, fifoGroups] using hb))
      (hP.calm (calm_setReception l (.storing f) _) hseq)
    exact hP.calm (calm_applyOutOfCycle _ _ _) (hP.calm (calm_offerHead _ _) (hP.evalLead hentry))

theorem CycleClosed.headerData {l : LinkId} {w : Word} {f : RxFrame} {s : State} (h : P s) :
    P (headerData l w f s) := by
  unfold Machine.headerData
  split
  · exact hP.calm (calm_setReception _ _ _) h
  · unfold takeHeader
    split
    iterate 3 exact hP.calm (calm_rejectFrame _ _ _) h
    split
    · exact hP.acceptData h
    · exact hP.calm (calm_setReception _ _ _) h

theorem CycleClosed.completeGroup {l : LinkId} {f : RxFrame} {g : List Word} {s : State} (h : P s) :
    P (completeGroup l f g s) := by
  unfold Machine.completeGroup
  split
  · next hroom =>
    have hset := calm_setReception l (.storing { f with slopes := [] }) s
    refine hP.calm (calm_engineChoose _) (hP.calm (calm_appendGroup g ?_) (hP.calm hset h))
    exact (congrArg fifoGroups (by simp [setReception])).trans_lt hroom
  · exact hP.abandonInto h

theorem CycleClosed.receiveData {l : LinkId} {w : Word} {s : State} (h : P s) : P (receiveData l w s) := by
  unfold Machine.receiveData
  split
  · exact hP.headerData h
  · unfold storingData
    split_ifs
    · exact hP.abandonInto h
    · exact hP.calm (calm_setReception _ _ _) h
    · exact hP.calm (calm_setReception _ _ _) h
    · exact hP.completeGroup h
  · unfold discardingData
    split
    · exact hP.abandonInto h
    · exact hP.calm (calm_setReception _ _ _) h
  all_goals exact h

theorem CycleClosed.verifyStored {l : LinkId} {f : RxFrame} {s : State} (h : P s) : P (verifyStored l f s) := by
  have hgood := hP.calm (calm_goodFrame l s) h
  have hfifo : fifoGroups (verifyLast (s.receivers.get l).fifo) ≤
      fifoGroups ((goodFrame l s).receivers.get l).fifo := by
    have hsame : ((goodFrame l s).receivers.get l).fifo = (s.receivers.get l).fifo := by
      unfold goodFrame linkUp
      split <;> simp [setReception, Receiver.count]
    rw [hsame]
    exact fifoGroups_verifyLast_le _
  unfold Machine.verifyStored
  have hverified : P ((goodFrame l s).onReceiver l
      (fun r => { r.checkSequence f.sequence with fifo := verifyLast (s.receivers.get l).fifo })) :=
    hP.calm (calm_onReceiver (fun hb => Nat.le_trans hfifo hb)) hgood
  refine hP.afterDeparture ?_
  split
  · exact hP.reportVerified hverified
  · exact hverified

theorem CycleClosed.verifyDiscarded {l : LinkId} {f : RxFrame} {s : State} (h : P s) : P (verifyDiscarded l f s) := by
  have hgood := hP.calm (calm_goodFrame l s) h
  unfold Machine.verifyDiscarded
  split
  · exact hP.calm (calm_onReceiver id) hgood
  · have hnotice := hP.calm (calm_count l (fun c => { c with notices := Counter.increase c.notices }) _) hgood
    unfold takeNotice
    dsimp only
    split
    · exact hP.calm (calm_muteSlot _ _) hnotice
    · exact hP.evalLead (hP.calm (calm_unmuteSlot _ _) hnotice)

theorem CycleClosed.receiveEnd {l : LinkId} {s : State} (h : P s) : P (receiveEnd l s) := by
  unfold Machine.receiveEnd
  split
  · exact hP.abandonInto h
  · unfold storingEnd
    split_ifs
    · exact hP.abandonInto h
    · exact hP.abandonInto h
    · exact hP.verifyStored h
  · unfold discardingEnd
    split_ifs
    · exact hP.abandonInto h
    · exact hP.abandonInto h
    · exact hP.verifyDiscarded h
  · exact hP.calm (calm_setReception _ _ _) h
  all_goals exact h

theorem CycleClosed.receive {l : LinkId} {x : LinkSymbol} {s : State} (h : P s) : P (receive l x s) := by
  cases x with
  | start => exact hP.abandonInto h
  | data w => exact hP.receiveData h
  | fin => exact hP.receiveEnd h
  | fill => exact h
  | invalid =>
    unfold Machine.receive receiveInvalid
    dsimp only
    split
    iterate 3 exact hP.abandonInto h
    all_goals exact h

theorem CycleClosed.linkSymbol {l : LinkId} {x : LinkSymbol} {s : State} (h : P s) : P (linkSymbol l x s) := by
  unfold Machine.linkSymbol
  split
  · split_ifs
    · exact hP.calm (calm_onReceiver id) h
    · exact hP.calm (calm_onReceiver id) h
    · exact hP.calm (calm_declareLock _ _) h
  · split
    · exact hP.calm (calm_post _ _) (hP.calm (calm_onReceiver id) (hP.abandonInto h))
    · exact hP.receive (hP.calm (calm_onReceiver id) h)

theorem CycleClosed.groupOperationEnd {s : State} (h : P s) : P (groupOperationEnd s) := by
  unfold Machine.groupOperationEnd
  split
  · exact h
  · next o _ =>
    split
    · refine hP.calm (calm_engineChoose _) (hP.calm (calm_onEngine fun hm => ?_) h)
      rw [Engine.memoryWf_iff] at hm ⊢
      obtain ⟨hfresh, hheld, hres, -⟩ := hm
      exact ⟨hfresh, hheld, hres, fun _ ho => by cases ho⟩
    · have hcommit := hP.calm (calm_onEngine (s := s) (f := Engine.commit o) memoryWf_commit) h
      refine hP.calm (calm_engineChoose _) ?_
      split
      · exact hP.reportLastGroup hcommit
      · exact hcommit

/-! ### The mirror link -/

theorem CycleClosed.takeOutcome {w : Writeout} {o : BoardOutcome} {s : State}
    (hw : s.mirror.activity.writeout = some w) (h : P s) : P (takeOutcome w o s) := by
  have hrecord : Calm s (s.onMirror (recordOutcome w o)) :=
    calm_onMirror (fun hm => memoryWf_of_vectors hm rfl (fun x hx => ⟨x, hx, rfl⟩))
  have hreport : ∀ b a u, P u → P (reportBoard w.board b a u) ∧
      (reportBoard w.board b a u).mirror = u.mirror := by
    intro b a u hu
    refine ⟨?_, (reportBoard_keeps w.board b a u).2.2.2.2.2.2.2.2.2.2.1⟩
    unfold reportBoard
    split
    · dsimp only
      split
      · exact hP.requestTrip _ _ (hP.calm (calm_post _ _) hu)
      · exact hP.calm (calm_post _ _) hu
    · exact hu
  obtain ⟨hP', hmirror⟩ := hreport (s.mirror.boards.get w.board)
    ((s.onMirror (recordOutcome w o)).mirror.boards.get w.board) _ (hP.calm hrecord h)
  refine hP.calm (calm_onMirror fun hm => memoryWf_enterGap ?_ hm) hP'
  rw [hmirror, MirrorLink.memoryWf_iff] at hm
  obtain ⟨-, hwriteout⟩ := hm
  exact hwriteout w hw

theorem CycleClosed.boardAnswer {o : BoardOutcome} {s : State} (h : P s) : P (boardAnswer o s) := by
  unfold Machine.boardAnswer
  split
  · next w r ha => exact hP.takeOutcome (by rw [ha]; rfl) h
  · exact h

theorem CycleClosed.readyTimeout {s : State} (h : P s) : P (readyTimeout s) := by
  unfold Machine.readyTimeout
  split
  · next w r ha =>
    split
    · exact hP.takeOutcome (by rw [ha]; rfl) h
    · exact h
  · exact h

theorem CycleClosed.ackTimeout {s : State} (h : P s) : P (ackTimeout s) := by
  unfold Machine.ackTimeout
  split
  · next w r ha =>
    split
    · exact hP.takeOutcome (by rw [ha]; rfl) h
    · exact h
  · exact h

end

end Sys2Proof.Machine

/-!
SUPPORT. Invariants of every event, continued: the masters' commands, the bytes of the ports and the step.
-/
namespace Sys2Proof.Machine

/-! ## The settings of the SET commands -/

/-- A slot policy that SET SLOT accepts has a hold limit of at most 15 (R50). -/
theorem holdLimit_of_checkSlot {x : SlotParams} {l : LinkId} {t : SlotPolicy} (h : checkSlot x = some (l, t)) :
    t.holdLimit ≤ 15 := by
  unfold checkSlot at h
  split at h
  · unfold inRange at h
    split at h
    · next hc =>
      simp only [Bool.and_eq_true, decide_eq_true_eq] at hc
      cases h
      exact hc.2
    · cases h
  · cases h

/-- A result at the port that took a command, after a calm change that keeps its activity, is calm. -/
theorem Calm.answer {s t : State} (h : Calm s t) {p : PortId} (hp : (s.ports.get p).takesCommand = true)
    (r : ResultRecord) : Calm s (t.answer p r) :=
  h.trans (calm_answer (fun c hc => not_executing_of_takesCommand hp c ((h.control.executing p c).mp hc)) r)

theorem calm_setMirror {p : PortId} {s : State} (hp : (s.ports.get p).takesCommand = true) (x : MirrorParams) :
    Calm s (setMirror p x s) := by
  unfold setMirror
  split
  · exact (Calm.refl s).answer hp _
  · split
    · exact (calm_onMirror fun h => memoryWf_of_vectors h rfl fun w hw => ⟨w, hw, rfl⟩).answer hp _
    · exact (calm_onMirror fun h => memoryWf_of_vectors h rfl fun w hw => ⟨w, hw, rfl⟩).answer hp _

theorem calm_setCapture {p : PortId} {s : State} (hp : (s.ports.get p).takesCommand = true) (x : CaptureParams) :
    Calm s (setCapture p x s) := by
  unfold setCapture
  split
  · exact (Calm.refl s).answer hp _
  · split
    · exact (calm_onCapture id).answer hp _
    · exact (calm_onCapture id).answer hp _

theorem calm_setOffload {p : PortId} {s : State} (hp : (s.ports.get p).takesCommand = true) (x : OffloadParams) :
    Calm s (setOffload p x s) := by
  unfold setOffload
  split
  · exact (Calm.refl s).answer hp _
  · split
    · exact (calm_onOffload _ _).answer hp _
    · exact (calm_onOffload _ _).answer hp _

theorem calm_setProbe {p : PortId} {s : State} (hp : (s.ports.get p).takesCommand = true) (x : Byte) :
    Calm s (setProbe p x s) := by
  unfold setProbe
  split
  · exact (Calm.refl s).answer hp _
  · split
    · exact (calm_onProbe _ _).answer hp _
    · exact (calm_onProbe _ _).answer hp _

theorem calm_setSlot {p : PortId} {s : State} (hp : (s.ports.get p).takesCommand = true) (x : SlotParams) :
    Calm s (setSlot p x s) := by
  unfold setSlot
  split
  · exact (Calm.refl s).answer hp _
  · next l t ht =>
    have hlimit := holdLimit_of_checkSlot ht
    split
    · refine (calm_onSlot fun h => ?_).answer hp _
      obtain ⟨hage, hpolicy, -⟩ := h
      exact ⟨hage, hpolicy, fun q hq => by cases hq; exact hlimit⟩
    · exact (calm_onSlot fun h => agesBounded_withPolicy h hlimit).answer hp _

theorem calm_setGeometry {p : PortId} {s : State} (hp : (s.ports.get p).takesCommand = true) (x : GeometryParams) :
    Calm s (setGeometry p x s) := by
  unfold setGeometry
  split
  · exact (Calm.refl s).answer hp _
  · split
    · exact (Calm.refl s).answer hp _
    · exact (calm_takeGeometry _ _ _).answer hp _

theorem calm_readCounters {p : PortId} {s : State} (hp : (s.ports.get p).takesCommand = true) (x : Byte) :
    Calm s (readCounters p x s) := by
  unfold readCounters
  split
  · exact (Calm.refl s).answer hp _
  · exact (Calm.refl s).answer hp _
  · exact (calm_clearCounters s).answer hp _

theorem calm_readBack {p : PortId} {s : State} (hp : (s.ports.get p).takesCommand = true) (x : ReadBackParams) :
    Calm s (readBack p x s) := by
  unfold readBack
  split
  · split_ifs <;> exact (Calm.refl s).answer hp _
  · exact (Calm.refl s).answer hp _

theorem calm_senseEvent {p : PortId} {s : State} (hp : (s.ports.get p).takesCommand = true) :
    Calm s (senseEvent p s) :=
  (calm_onPort (f := Port.sense) (fun h => by simp only [Port.sense, List.length_tail]; omega) (fun _ => Iff.rfl)).answer
    hp _

/-! ## The bytes of the ports -/

theorem calm_portSelect (p : PortId) (s : State) : Calm s (s.onPort p Port.select) := by
  have hkeep : ∀ q : Port, q.select.queue = q.queue ∧ q.select.activity = q.activity := by
    intro q
    unfold Port.select
    split <;> exact ⟨rfl, rfl⟩
  exact calm_onPort (fun h => by rwa [(hkeep _).1]) (fun c => by rw [(hkeep _).2])

theorem calm_transactionByte (p : PortId) (b : Byte) (s : State) :
    Calm s (s.onPort p (Port.takeTransactionByte b)) := by
  have hkeep : ∀ q : Port, (q.takeTransactionByte b).queue = q.queue ∧ (q.takeTransactionByte b).activity = q.activity := by
    intro q
    unfold Port.takeTransactionByte
    split
    · exact ⟨rfl, rfl⟩
    · split <;> exact ⟨rfl, rfl⟩
  exact calm_onPort (fun h => by rwa [(hkeep _).1]) (fun c => by rw [(hkeep _).2])

theorem calm_answerZero (p : PortId) (s : State) : Calm s (s.onPort p Port.answerZero) :=
  calm_onPort id (fun _ => Iff.rfl)

theorem calm_sendResultByte (p : PortId) (s : State) : Calm s (s.onPort p Port.sendResultByte) := by
  have hkeep : ∀ q : Port, q.sendResultByte.queue = q.queue ∧
      ∀ c, q.sendResultByte.activity = .executing c ↔ q.activity = .executing c := by
    intro q
    unfold Port.sendResultByte
    split
    · next ha =>
      dsimp only
      split
      · exact ⟨rfl, fun c => by simp [ha]⟩
      · exact ⟨rfl, fun c => by simp [Port.resultTaken, ha]⟩
    all_goals exact ⟨rfl, fun _ => Iff.rfl⟩
  exact calm_onPort (fun h => by rwa [(hkeep _).1]) (hkeep _).2

theorem calm_resultByte (p : PortId) (s : State) : Calm s (resultByte p s) := by
  unfold resultByte
  split
  · exact calm_sendResultByte _ _
  · exact calm_answerZero _ _
  · exact calm_answerZero _ _
  all_goals exact .refl s

theorem arrive_keeps {P : State → Prop} {p : PortId} {f : State → State} {s : State}
    (hf : (s.ports.get p).takesCommand = true → P (f s)) (h : P s) : P (State.arrive p f s) := by
  unfold State.arrive
  split
  · next hp => exact hf hp
  · exact h

section
variable {P : State → Prop} (hP : EventClosed P)
include hP

/-! ## The masters' commands -/

theorem EventClosed.setTiming {p : PortId} {x : TimingParams} {s : State} (hp : (s.ports.get p).takesCommand = true)
    (h : P s) : P (setTiming p x s) := by
  have hreject : ∀ code reason, P (s.reject p code reason) := fun _ _ => hP.calm ((Calm.refl s).answer hp _) h
  unfold Machine.setTiming
  split
  · exact hreject _ _
  · next t _ =>
    split_ifs
    · exact hreject _ _
    · exact hP.calm ((calm_onManager (f := fun m => { m with held := some t }) rfl rfl).answer hp _) h
    · have hports : (Machine.applyTiming t s).ports = s.ports := (applyTiming_keepsCommitted t s).2.1
      refine hP.calm (calm_answer ?_ _) (hP.applyTiming h)
      rw [hports]
      exact not_executing_of_takesCommand hp

theorem EventClosed.loopCommand {p : PortId} {x : Byte} {s : State} (hp : (s.ports.get p).takesCommand = true)
    (h : P s) : P (loopCommand p x s) := by
  unfold Machine.loopCommand
  split
  · exact hP.calm ((Calm.refl s).answer hp _) h
  · exact hP.loopStart p s hp h
  · exact hP.loopRequest _ p s hp h

theorem EventClosed.runCommand {p : PortId} {c : PortCommand} {s : State} (hp : (s.ports.get p).takesCommand = true)
    (h : P s) : P (runCommand p c s) := by
  cases c with
  | getStatus => exact hP.calm ((Calm.refl s).answer hp _) h
  | readCounters x => exact hP.calm (calm_readCounters hp x) h
  | setGeometry x => exact hP.calm (calm_setGeometry hp x) h
  | setTiming x => exact hP.setTiming hp h
  | setSlot x => exact hP.calm (calm_setSlot hp x) h
  | setMirror x => exact hP.calm (calm_setMirror hp x) h
  | setProbe m => exact hP.calm (calm_setProbe hp m) h
  | setCapture x => exact hP.calm (calm_setCapture hp x) h
  | setOffload x => exact hP.calm (calm_setOffload hp x) h
  | load x => exact hP.load p x s hp h
  | readBack x => exact hP.calm (calm_readBack hp x) h
  | apply w => exact hP.apply p w s hp h
  | loop t => exact hP.loopCommand hp h
  | readOffload => exact hP.calm ((calm_onOffload _ s).answer hp _) h
  | senseEvent => exact hP.calm (calm_senseEvent hp) h
  | resetPart => exact hP.resetPart p s hp h

theorem EventClosed.receiveRecord {p : PortId} {r : CommandRecord} {s : State}
    (hp : (s.ports.get p).takesCommand = true) (h : P s) : P (receiveRecord p r s) := by
  have hreject : ∀ code reason, P (s.reject p code reason) := fun _ _ => hP.calm ((Calm.refl s).answer hp _) h
  unfold Machine.receiveRecord
  split
  · unfold judge
    split
    · split
      · split
        · exact hP.runCommand hp h
        · exact hreject _ _
      · exact hreject _ _
    · exact hreject _ _
  · refine hP.calm (calm_onPort id fun c => ?_) h
    simp [not_executing_of_takesCommand hp c]

theorem EventClosed.offerByte {p : PortId} {b : Byte} {s : State} (h : P s) : P (offerByte p b s) := by
  unfold Machine.offerByte
  split
  · next ha => exact hP.receiveRecord (by simp [Port.takesCommand, ha]) h
  · next ha => exact hP.receiveRecord (by simp [Port.takesCommand, ha]) h
  all_goals exact h

theorem EventClosed.commandByte {p : PortId} {b : Byte} {s : State} (h : P s) : P (commandByte p b s) := by
  have hzero := hP.calm (calm_answerZero p s) h
  unfold Machine.commandByte
  split
  · exact hP.offerByte hzero
  · exact hzero
  · exact hzero
  all_goals exact h

/-! ## The step -/

/-- Every command that runs keeps an event-closed property. -/
theorem EventClosed.whenRunning {c : Instr} {s : State} (h : P s) : P (whenRunning c s) := by
  cases c with
  | powerOnReset => exact hP.powerOnReset s h
  | linkStartSymbol l => exact hP.linkSymbol h
  | linkDataSymbol l w => exact hP.linkSymbol h
  | linkEndSymbol l => exact hP.linkSymbol h
  | linkFillSymbol l => exact hP.linkSymbol h
  | linkInvalidSymbol l => exact hP.linkSymbol h
  | timingLineChange => exact hP.startMeasuring (hP.calm (calm_line _ _) h)
  | lineFilterExpiry =>
    simp only [Machine.whenRunning]
    split
    · exact hP.filterTakes h
    · exact h
  | lineDelayExpiry =>
    simp only [Machine.whenRunning]
    split
    · exact hP.produceTrigger (hP.calm (calm_onManager rfl rfl) h)
    · exact h
  | periodExpiry =>
    simp only [Machine.whenRunning]
    split
    · exact hP.produceTrigger (hP.calm (calm_onManager rfl rfl) h)
    · exact h
  | fallbackExpiry =>
    simp only [Machine.whenRunning]
    split
    · next hdue =>
      simp only [Bool.and_eq_true, beq_iff_eq] at hdue
      exact hP.openCycle _ _ _ hdue.2 (hP.calm (calm_onManagerCounters _ _) h)
    · exact h
  | deadlineExpiry =>
    simp only [Machine.whenRunning]
    split
    · next hdue =>
      simp only [Bool.and_eq_true, beq_iff_eq] at hdue
      exact hP.deadlineClose hdue.2 h
    · exact h
  | groupOperationEnd => exact hP.groupOperationEnd h
  | closeComputationEnd => exact hP.closeComputationEnd s h
  | addressSent => exact hP.calm (calm_onMirror memoryWf_addressSent) h
  | boardReady => exact hP.calm (calm_onMirror memoryWf_boardReady) h
  | boardBusy => exact hP.calm (calm_onMirror memoryWf_boardBusy) h
  | readyTimeout => exact hP.readyTimeout h
  | blockSent => exact hP.calm (calm_onMirror memoryWf_blockSent) h
  | boardAck => exact hP.boardAnswer h
  | boardNak => exact hP.boardAnswer h
  | ackTimeout => exact hP.ackTimeout h
  | gapEnd => exact hP.calm (calm_onMirror memoryWf_gapEnd) h
  | telemetryGo => exact hP.calm (calm_onCapture (f := fun c => { c with flow := .go }) id) h
  | telemetryHold => exact hP.calm (calm_onCapture (f := fun c => { c with flow := .hold }) id) h
  | telemetrySymbolSent => exact hP.calm (calm_symbolSent s) h
  | portSelect p => exact hP.calm (calm_portSelect p s) h
  | transactionByte p b => exact hP.calm (calm_transactionByte p b s) h
  | commandByte p b => exact hP.commandByte h
  | resultByte p => exact hP.calm (calm_resultByte p s) h
  | portDeselect p => exact hP.calm (calm_onPort (f := fun q => { q with transaction := none }) id (fun _ => Iff.rfl)) h
  | unknownCommand p code =>
    refine arrive_keeps (fun hp => ?_) h
    unfold unknownCommand
    split
    · exact h
    · exact hP.calm ((Calm.refl s).answer hp _) h
  | loadWordWrite => exact hP.loadWordWrite s h
  | timebaseTick => exact hP.calm (calm_tick s) h
  | resetEnd => exact hP.calm (calm_resetEnd s) h
  | _ => exact arrive_keeps (fun hp => hP.runCommand hp h) h

/-- Every command keeps an event-closed property, also while the reset acts (log 5). -/
theorem EventClosed.exec {c : Instr} {s t : State} (he : exec c s = .next t) (h : P s) : P t := by
  cases hr : s.resetActs with
  | false =>
    rw [exec_running c hr] at he
    cases he
    exact hP.whenRunning h
  | true =>
    cases hc : actsInReset c with
    | false =>
      rw [exec_underReset c hr hc] at he
      cases he
      exact h
    | true =>
      simp only [actsInReset, Bool.or_eq_true, beq_iff_eq] at hc
      rcases hc with ((rfl | rfl) | rfl) | rfl
      · cases he
        exact hP.powerOnReset s h
      · cases he
        exact hP.calm (calm_resetEnd s) h
      · cases he
        exact hP.calm (calm_tick s) h
      · have hfollow : Machine.exec .timingLineChange s = .next (followRaw (invertRaw s)) :=
          congrArg Host.Outcome.next (if_pos hr)
        rw [hfollow] at he
        cases he
        exact hP.calm ((calm_line _ s).trans (calm_line _ _)) h

/-- Every step keeps an event-closed property. -/
theorem EventClosed.step {s t : State} (he : step s = .next t) (h : P s) : P t := by
  cases hq : s.pending with
  | nil =>
    rw [step_of_empty hq] at he
    cases he
    exact h
  | cons c rest =>
    rw [step_of_waiting hq] at he
    exact hP.exec he (hP.calm (calm_pending rest s) h)

end

end Sys2Proof.Machine

/-!
SUPPORT. The bounds of the queues, FIFOs and ages, and the canonical form of the arrays, through the operations that move
the control states; with these every step keeps them (O56, O57).
-/
namespace Sys2Proof.Machine

/-! ## Trips and loop requests -/

theorem keepsData_onManager (f : Manager → Manager) (s : State) : KeepsData s (s.onManager f) :=
  ⟨fun _ h => h, id, fun _ h => h, fun _ h => h, id⟩

theorem keepsData_onLoop (f : LoopController → LoopController) (s : State) : KeepsData s (s.onLoop f) :=
  ⟨fun _ h => h, id, fun _ h => h, fun _ h => h, id⟩

theorem keepsData_withdrawRequest (r : Reason) (q : Option PortId) (s : State) :
    KeepsData s (withdrawRequest r q s) := by
  unfold withdrawRequest
  split
  · exact .refl s
  · exact (keepsData_onLoop _ s).trans (answer_keepsData _ _ _)

theorem keepsData_takeTrip (t : PendingTrip) (s : State) : KeepsData s (takeTrip t s) := by
  unfold takeTrip
  split
  · exact (keepsData_onLoop _ s).trans (calm_post _ _).data
  · exact keepsData_onLoop _ s

theorem keepsData_requestTrip (c : TripCause) (s : State) : KeepsData s (requestTrip c s) := by
  have hhold : KeepsData s (requestTrip.holdTrip c s) := by
    unfold requestTrip.holdTrip
    split
    · exact keepsData_onLoop _ s
    · exact (keepsData_withdrawRequest _ _ s).trans (keepsData_onLoop _ _)
  unfold requestTrip
  split
  · exact .refl s
  · exact keepsData_takeTrip _ s
  · exact hhold
  · exact hhold

/-! ## The close of a cycle -/

theorem keepsData_treatSlot (x : LoopState) (st : Quad (Option AttachStatus)) (l : LinkId) (s : State) :
    KeepsData s (treatSlot x st l s) := by
  have hslot : KeepsData s (s.onSlot l (fun _ => (closeSlot (st.get l) (s.slots.get l)).slot)) :=
    (calm_onSlot (agesBounded_closeSlot _)).data
  have hpost : ∀ c u, KeepsData u (postSlotChange l c u) := by
    intro c u
    unfold postSlotChange
    split
    · exact .refl u
    · exact (calm_post _ _).data
  unfold treatSlot
  dsimp only
  split
  · exact (hslot.trans (hpost _ _)).trans (keepsData_requestTrip _ _)
  · exact hslot.trans (hpost _ _)

/-- The probe terms supplied to a close are tabulated (R138). -/
theorem wf_probeTerms (m : ProbeMode) (n : Nat) (c : Cells 16) (k : Nat) :
    Cells.wf zeroCell (probeTerms m n c k) = true := by
  cases m with
  | off => exact Cells.wf_nil _
  | on j => exact Cells.wf_tabulate _ _

/-- A working set copies canonical arrays. -/
theorem keepsData_startComputation (sel : Quad Selection) (x : LoopState) (s : State) :
    KeepsData s (startComputation sel x s) := by
  refine ⟨fun _ h => h, id, fun _ h => h, fun _ h => h, ?_⟩
  simp only [memoryWf_iff]
  rintro ⟨hactive, hshadow, hengine, hcommand, hmirror⟩
  refine ⟨hactive, hshadow, hengine, ?_, hmirror⟩
  rw [Stores.wf_iff] at hactive
  obtain ⟨-, hheld, -, -⟩ := (Engine.memoryWf_iff _).mp hengine
  simp only [CommandUnit.memoryWf, Bool.and_eq_true] at hcommand
  obtain ⟨⟨hu, hd⟩, -⟩ := hcommand
  simp only [startComputation, CommandUnit.memoryWf, Option.all_some, WorkingSet.memoryWf, Bool.and_eq_true, cellsWf_iff]
  exact ⟨⟨hu, hd⟩, ⟨⟨⟨⟨⟨⟨⟨hheld, hactive .gains⟩, hactive .groupmap⟩, hactive .offsets⟩, hactive .limits⟩,
    hactive .neighbours⟩, wf_probeTerms _ _ _ _⟩, hu⟩⟩

theorem keepsData_closeCycle (c : CloseCause) (s : State) : KeepsData s (closeCycle c s) := by
  unfold closeCycle
  split
  · exact .refl s
  · next o _ =>
    have htreat : KeepsData s (treatSlots o s) :=
      (keepsData_onManager _ s).trans (KeepsData.forLinks (keepsData_treatSlot _ _) links _)
    exact ((htreat.trans (calm_onEngine (memoryWf_engineClose _)).data).trans
      (keepsData_startComputation _ _ _)).trans (keepsData_onManager _ _)

/-! ## The open of a cycle -/

theorem calm_advanceSlots (s : State) : Calm s { s with slots := s.slots.map Slot.advance } :=
  calm_slots fun l h => by rw [Quad.get_map]; exact agesBounded_advance h

theorem calm_clearResiduals (s : State) : Calm s (s.onEngine (fun e => { e with residuals := [] })) := by
  refine calm_onEngine fun h => ?_
  rw [Engine.memoryWf_iff] at h ⊢
  obtain ⟨hfresh, hheld, -, hop⟩ := h
  exact ⟨hfresh, hheld, Cells.wf_nil _, hop⟩

theorem keepsData_openCycle (c : OpenCause) (b : Bool) (s : State) : KeepsData s (openCycle c b s) := by
  have hopen : KeepsData s { s with
      manager := { s.manager with
        state := .gathering
        cycle := (newRecord c b s).opened.cycle
        openRecord := some (newRecord c b s)
        fallback := none }
      slots := s.slots.map Slot.advance
      engine := { s.engine with residuals := [] } } :=
    ((calm_advanceSlots s).trans (calm_clearResiduals _)).data.trans (keepsData_onManager (fun m => { m with
        state := .gathering
        cycle := (newRecord c b s).opened.cycle
        openRecord := some (newRecord c b s)
        fallback := none }) _)
  unfold openCycle
  dsimp only
  split
  · exact hopen.trans (keepsData_closeCycle _ _)
  · exact ((hopen.trans (keepsData_onManager _ _)).trans (Calm.forLinks calm_offerHead links _).data).trans
      (calm_engineChoose _).data

/-- The data that carry over from `s₀` do so through every opening of a cycle. -/
theorem openingClosed_keepsData (s₀ : State) : OpeningClosed (KeepsData s₀) :=
  ⟨fun hc h => h.trans hc.data, fun c b s _ h => h.trans (keepsData_openCycle c b s)⟩

theorem keepsData_enterArmed (s : State) : KeepsData s (enterArmed s) := by
  unfold enterArmed
  split
  · exact ((keepsData_onManager _ s).trans (keepsData_onManager _ _)).trans (keepsData_openCycle _ _ _)
  · dsimp only
    split
    · split
      · exact (keepsData_onManager _ s).trans (keepsData_openCycle _ _ _)
      · exact (keepsData_onManager _ s).trans (calm_startFallback _).data
    · exact keepsData_onManager _ s

theorem keepsData_takeHeldTiming (s : State) : KeepsData s (takeHeldTiming s) := by
  unfold takeHeldTiming
  split
  · exact .refl s
  · exact (openingClosed_keepsData s).applyTiming (.refl s)

/-! ## Stores -/

theorem keepsData_onStores {s : State} {f : StoreController → StoreController}
    (ha : s.stores.active.wf = true → s.stores.shadow.wf = true → (f s.stores).active.wf = true)
    (hs : s.stores.active.wf = true → s.stores.shadow.wf = true → (f s.stores).shadow.wf = true) :
    KeepsData s (s.onStores f) := by
  refine ⟨fun _ h => h, id, fun _ h => h, fun _ h => h, ?_⟩
  simp only [memoryWf_iff]
  rintro ⟨hactive, hshadow, hengine, hcommand, hmirror⟩
  exact ⟨ha hactive hshadow, hs hactive hshadow, hengine, hcommand, hmirror⟩

theorem wf_pick (sel : BitVec 9) {x y : Stores} (hx : x.wf = true) (hy : y.wf = true) :
    (Stores.pick sel x y).wf = true := by
  rw [Stores.wf_iff] at hx hy ⊢
  intro id
  rw [pick_get]
  split
  · exact hy id
  · exact hx id

theorem wf_writeShadow (id : StoreId) (i : Nat) (w : Word) {c : Stores} (h : c.wf = true) :
    (writeShadow id i w c).wf = true := by
  rw [Stores.wf_iff] at h ⊢
  intro k
  by_cases hk : k = id
  · subst hk
    rw [writeShadow, Stores.get_set_self]
    exact Cells.wf_write _ _ _ _ (h k)
  · rw [writeShadow, Stores.get_set_ne _ _ hk]
    exact h k

theorem keepsData_takeApply (sel : BitVec 9) (p : PortId) (s : State) : KeepsData s (takeApply sel p s) :=
  (keepsData_onStores (f := exchange sel) (fun ha hs => wf_pick sel ha hs) (fun ha hs => wf_pick sel hs ha)).trans
    (answer_keepsData _ _ _)

theorem keepsData_onPort {p : PortId} {s : State} {f : Port → Port}
    (h : (s.ports.get p).queue.length ≤ 16 → (f (s.ports.get p)).queue.length ≤ 16) : KeepsData s (s.onPort p f) := by
  refine ⟨fun r hr => ?_, id, fun _ h => h, fun _ h => h, id⟩
  simp only [State.onPort, Pair.get_set]
  split
  · next hrp => subst hrp; exact h hr
  · exact hr

theorem keepsData_execute (p : PortId) (c : ExecutingCommand) (s : State) : KeepsData s (s.execute p c) :=
  keepsData_onPort id

theorem keepsData_load (p : PortId) (x : LoadParams) (s : State) : KeepsData s (load p x s) := by
  unfold load
  split
  · exact answer_keepsData _ _ _
  · split_ifs
    iterate 3 exact answer_keepsData _ _ _
    refine KeepsData.trans ?_ (keepsData_execute _ _ _)
    exact keepsData_onStores (fun ha _ => ha) (fun _ hs => hs)

theorem keepsData_loadWordWrite (s : State) : KeepsData s (loadWordWrite s) := by
  unfold loadWordWrite
  split
  · exact .refl s
  · dsimp only
    split
    · exact keepsData_onStores (fun ha _ => ha) (fun _ hs => wf_writeShadow _ _ _ hs)
    · refine KeepsData.trans ?_ (answer_keepsData _ _ _)
      exact keepsData_onStores (fun ha _ => ha) (fun _ hs => wf_writeShadow _ _ _ hs)

theorem keepsData_apply (p : PortId) (x : Word) (s : State) : KeepsData s (Machine.apply p x s) := by
  unfold Machine.apply
  split_ifs
  iterate 3 exact answer_keepsData _ _ _
  · refine KeepsData.trans ?_ (keepsData_execute _ _ _)
    exact keepsData_onStores (fun ha _ => ha) (fun _ hs => hs)
  · exact keepsData_takeApply _ _ s

/-! ## The loop -/

theorem keepsData_onCommand {s : State} {f : CommandUnit → CommandUnit}
    (h : s.command.memoryWf = true → (f s.command).memoryWf = true) : KeepsData s (s.onCommand f) := by
  refine ⟨fun _ h => h, id, fun _ h => h, fun _ h => h, ?_⟩
  simp only [memoryWf_iff]
  rintro ⟨hactive, hshadow, hengine, hcommand, hmirror⟩
  exact ⟨hactive, hshadow, hengine, h hcommand, hmirror⟩

theorem CommandUnit.memoryWf_clearU {c : CommandUnit} (h : c.memoryWf = true) :
    ({ c with u := [] } : CommandUnit).memoryWf = true := by
  simp only [CommandUnit.memoryWf, Bool.and_eq_true] at h ⊢
  obtain ⟨⟨-, hd⟩, hw⟩ := h
  exact ⟨⟨Cells.wf_nil _, hd⟩, hw⟩

theorem keepsData_takeRequest (t : RequestTarget) (p : PortId) (s : State) : KeepsData s (takeRequest t p s) := by
  have hcommand : KeepsData (s.onLoop (fun c => { c with loop := t.loopState, request := none }))
      ((s.onLoop (fun c => { c with loop := t.loopState, request := none })).onCommand
        (fun c => { c with u := t.integrator c.u })) := by
    refine keepsData_onCommand fun h => ?_
    cases t with
    | opn => exact CommandUnit.memoryWf_clearU h
    | close => exact h
    | freeze => exact h
    | stop => exact h
  exact (((keepsData_onLoop _ s).trans hcommand).trans (calm_post _ _).data).trans (answer_keepsData _ _ _)

theorem keepsData_managerToIdle (s : State) : KeepsData s (managerToIdle s) :=
  (calm_dropLatch s).data.trans (keepsData_onManager _ _)

theorem keepsData_stopCycles (s : State) : KeepsData s (stopCycles s) := by
  refine (keepsData_managerToIdle s).trans (calm_receivers fun l _ => ?_).data
  rw [Quad.get_map]
  exact Nat.zero_le _

theorem keepsData_loopRequest (t : RequestTarget) (p : PortId) (s : State) : KeepsData s (loopRequest t p s) := by
  unfold loopRequest
  split_ifs
  · exact answer_keepsData _ _ _
  · exact answer_keepsData _ _ _
  · exact ((keepsData_withdrawRequest _ _ s).trans (keepsData_onLoop _ _)).trans (keepsData_execute _ _ _)
  · unfold takeAtOnce
    dsimp only
    split
    · exact (keepsData_takeRequest _ _ s).trans (keepsData_stopCycles _)
    · exact keepsData_takeRequest _ _ s

theorem keepsData_startSlot (l : LinkId) (s : State) : KeepsData s (startSlot l s) := by
  have hslot : KeepsData s (s.onSlot l (fun x => { x with
      age := 0
      cadence := x.policy.phase
      state := x.startState })) := by
    refine (calm_onSlot fun h => ?_).data
    obtain ⟨-, hlimit, hheld⟩ := h
    exact ⟨Nat.zero_le _, hlimit, hheld⟩
  unfold startSlot
  dsimp only
  split
  · exact hslot
  · exact hslot.trans (calm_post _ _).data

theorem keepsData_startBlocks (s : State) : KeepsData s (startBlocks s) := by
  refine ⟨fun _ h => h, id, fun _ h => h, fun _ h => h, ?_⟩
  simp only [memoryWf_iff]
  rintro ⟨hactive, hshadow, hengine, hcommand, hmirror⟩
  rw [Engine.memoryWf_iff] at hengine
  obtain ⟨-, -, hres, hop⟩ := hengine
  refine ⟨hactive, hshadow, (Engine.memoryWf_iff _).mpr ⟨fun l => ?_, fun l => ?_, hres, hop⟩,
    CommandUnit.memoryWf_clearU hcommand, hmirror⟩
  · simp [startBlocks, Engine.start]
  · simp [startBlocks, Engine.start]

theorem keepsData_loopStart (p : PortId) (s : State) : KeepsData s (loopStart p s) := by
  unfold loopStart
  split_ifs
  iterate 3 exact answer_keepsData _ _ _
  have hposted : KeepsData s (((s.onLoop (fun c => { c with loop := .opened, request := none })).onManager
      Manager.clear).post (.loopChange s.loop.loop .opened (.request p))) :=
    ((keepsData_onLoop _ s).trans (keepsData_onManager _ _)).trans (calm_post _ _).data
  have hdone := ((hposted.trans (KeepsData.forLinks keepsData_startSlot links _)).trans
    (keepsData_startBlocks _)).trans (answer_keepsData p
      { code := codeLoop, cls := .complete, reason := .none, data := loopData s.loop.loop .opened 0 } _)
  exact ((hdone.trans (keepsData_onManager (fun m => { m with state := .armed }) _)).trans
    (calm_startPeriod _).data).trans (keepsData_enterArmed _)

/-! ## The boundary -/

theorem keepsData_offloadClose (c : Counter) (s : State) : KeepsData s (offloadClose c s) := by
  unfold offloadClose
  dsimp only
  split_ifs
  · exact .refl s
  · exact ((calm_onOffload _ s).trans (calm_post _ _)).data
  · exact (calm_onOffload _ s).data

/-- A record is queued only where it fits in full (R191). -/
theorem keepsData_captureClose (r : CycleRecord) (s : State) : KeepsData s (captureClose r s) := by
  have hoffer : ∀ (ws : List Word) (c : CaptureUnit), (c.fifo.map List.length).sum ≤ 65536 →
      ((c.offer ws).fifo.map List.length).sum ≤ 65536 := by
    intro ws c h
    unfold CaptureUnit.offer
    split
    · next hfit =>
      simpa [CaptureUnit.level, Config.telemetryWords] using hfit
    · exact h
  have hchange : ∀ ws : List Word, KeepsData s (s.onCapture (fun c =>
      { (if c.settings.pattern.captures c.position then c.offer ws else c) with
        position := c.settings.pattern.next c.position })) := by
    refine fun ws => (calm_onCapture fun h => ?_).data
    dsimp only
    split
    · exact hoffer _ _ h
    · exact h
  exact hchange _

theorem keepsData_handResults (w : WorkingSet) (o : OpenInfo) (info : CloseInfo) (s : State) :
    KeepsData s (handResults w o info s) := by
  have hcommit : KeepsData s (s.onCommand (CommandUnit.commit (closeResult w))) :=
    keepsData_onCommand fun _ => by
      simp [CommandUnit.commit, CommandUnit.memoryWf, closeResult]
  have hmirror := calm_onMirror (s := s.onCommand (CommandUnit.commit (closeResult w)))
    (f := handOver (closedVector (closeResult w) w o.cycle)) (memoryWf_handOver (Cells.wf_tabulate _ _))
  have hrecord : ∀ r u, KeepsData u (completeRecord r u) := fun _ u => keepsData_onManager _ u
  exact (((hcommit.trans hmirror.data).trans (keepsData_offloadClose _ _)).trans (keepsData_captureClose _ _)).trans
    (hrecord _ _)

theorem keepsData_takePendingApply (s : State) : KeepsData s (takePendingApply s) := by
  unfold takePendingApply
  split
  · exact .refl s
  · refine KeepsData.trans ?_ (keepsData_takeApply _ _ _)
    exact keepsData_onStores (fun ha _ => ha) (fun _ hs => hs)

theorem keepsData_takePendingLoop (s : State) : KeepsData s (takePendingLoop s) := by
  unfold takePendingLoop
  split
  · exact keepsData_takeTrip _ s
  · split
    · exact keepsData_takeRequest _ _ s
    · exact .refl s

theorem CaptureUnit.fifo_takeHeld (c : CaptureUnit) : c.takeHeld.fifo = c.fifo := by
  unfold CaptureUnit.takeHeld
  split <;> rfl

theorem MirrorLink.memoryWf_takeHeld {m : MirrorLink} (h : m.memoryWf = true) : m.takeHeld.memoryWf = true := by
  unfold MirrorLink.takeHeld
  split
  · exact h
  · exact memoryWf_of_vectors h rfl fun w hw => ⟨w, hw, rfl⟩

/-- The settings held other than the timing settings. -/
def takeHeldOthers (s : State) : State :=
  { s with
    slots := s.slots.map Slot.takeHeld
    probe := s.probe.takeHeld
    mirror := s.mirror.takeHeld
    capture := s.capture.takeHeld
    offload := s.offload.takeHeld }

theorem takeHeldSettings_eq (s : State) : takeHeldSettings s = takeHeldTiming (takeHeldOthers s) := rfl

theorem calm_takeHeldOthers (s : State) : Calm s (takeHeldOthers s) := by
  have hslots : Calm s { s with slots := s.slots.map Slot.takeHeld } :=
    calm_slots fun l h => by rw [Quad.get_map]; exact agesBounded_takeHeld h
  have hcapture : ∀ u : State, Calm u (u.onCapture CaptureUnit.takeHeld) := fun u =>
    calm_onCapture fun h => by rwa [CaptureUnit.fifo_takeHeld]
  exact (((hslots.trans (calm_onProbe ProbeGenerator.takeHeld _)).trans
    (calm_onMirror (f := MirrorLink.takeHeld) MirrorLink.memoryWf_takeHeld)).trans (hcapture _)).trans
    (calm_onOffload OffloadUnit.takeHeld _)

theorem keepsData_takeHeldSettings (s : State) : KeepsData s (takeHeldSettings s) :=
  (calm_takeHeldOthers s).data.trans (keepsData_takeHeldTiming _)

theorem keepsData_leaveBoundary (s : State) : KeepsData s (leaveBoundary s) := by
  unfold leaveBoundary
  split
  · exact keepsData_stopCycles s
  · exact keepsData_enterArmed s

theorem keepsData_boundary (s : State) : KeepsData s (boundary s) :=
  (((keepsData_takePendingApply s).trans (keepsData_takePendingLoop _)).trans (keepsData_takeHeldSettings _)).trans
    (keepsData_leaveBoundary _)

theorem keepsData_closeComputationEnd (s : State) : KeepsData s (closeComputationEnd s) := by
  unfold closeComputationEnd
  split
  · split
    · exact (keepsData_handResults _ _ _ s).trans (keepsData_boundary _)
    · exact .refl s
  · exact .refl s

/-! ## The resets -/

theorem keepsData_softResetBlocks (s : State) : KeepsData s (softResetBlocks s) := by
  refine ⟨fun _ h => h, fun _ => Nat.zero_le _, fun l _ => ?_, fun l h => ?_, ?_⟩
  · show fifoGroups ((s.receivers.map Receiver.softReset).get l).fifo ≤ 64
    rw [Quad.get_map]
    exact Nat.zero_le _
  · show ((s.slots.map Slot.softReset).get l).agesBounded
    rw [Quad.get_map]
    exact agesBounded_softReset h
  · simp only [memoryWf_iff]
    rintro ⟨hactive, hshadow, -, hcommand, hmirror⟩
    simp only [CommandUnit.memoryWf, Bool.and_eq_true] at hcommand
    obtain ⟨⟨-, hd⟩, -⟩ := hcommand
    refine ⟨hactive, hshadow, rfl, ?_, ?_⟩
    · simp [softResetBlocks, CommandUnit.softReset, CommandUnit.memoryWf, hd]
    · exact (MirrorLink.memoryWf_iff _).mpr ⟨fun _ hv => (by cases hv), fun _ hw => (by cases hw)⟩

theorem keepsData_resetOtherPort (p : PortId) (s : State) : KeepsData s (resetOtherPort p s) := by
  unfold resetOtherPort
  split
  · exact .refl s
  · exact keepsData_onPort id
  · exact answer_keepsData _ _ _
  · exact .refl s

theorem keepsData_clearQueues (s : State) : KeepsData s { s with ports := s.ports.map Port.clearQueue } := by
  refine ⟨fun q _ => ?_, id, fun _ h => h, fun _ h => h, id⟩
  simp [Port.clearQueue]

theorem keepsData_softResetManager (s : State) : KeepsData s (softResetManager s) :=
  ((keepsData_managerToIdle s).trans (keepsData_onManager _ _)).trans (keepsData_takeHeldTiming _)

theorem keepsData_resetPart (p : PortId) (s : State) : KeepsData s (resetPart p s) :=
  (((((keepsData_resetOtherPort p.other s).trans (keepsData_clearQueues _)).trans (keepsData_softResetManager _)).trans
    (keepsData_softResetBlocks _)).trans (calm_post _ _).data).trans (answer_keepsData _ _ _)

theorem keepsData_powerOnReset (s : State) : KeepsData s (powerOnReset s) := by
  refine ⟨fun q _ => ?_, fun _ => Nat.zero_le _, fun l _ => ?_, fun l _ => ?_, fun _ => rfl⟩
  · cases q <;> exact Nat.zero_le _
  · show fifoGroups ((Quad.fill Receiver.underReset).get l).fifo ≤ 64
    rw [Quad.get_fill]
    exact Nat.zero_le _
  · show ((Quad.fill Slot.powerOn).get l).agesBounded
    rw [Quad.get_fill]
    exact ⟨Nat.zero_le _, by decide, fun _ hp => by cases hp⟩

/-! ## Every step keeps the data -/

/-- The data that carry over from `s₀` do so through every event. -/
theorem eventClosed_keepsData (s₀ : State) : EventClosed (KeepsData s₀) where
  toOpeningClosed := openingClosed_keepsData s₀
  requestTrip c s h := h.trans (keepsData_requestTrip c s)
  closeCycle c s _ h := h.trans (keepsData_closeCycle c s)
  closeComputationEnd s h := h.trans (keepsData_closeComputationEnd s)
  loopStart p s _ h := h.trans (keepsData_loopStart p s)
  loopRequest t p s _ h := h.trans (keepsData_loopRequest t p s)
  load p x s _ h := h.trans (keepsData_load p x s)
  loadWordWrite s h := h.trans (keepsData_loadWordWrite s)
  apply p x s _ h := h.trans (keepsData_apply p x s)
  resetPart p s _ h := h.trans (keepsData_resetPart p s)
  powerOnReset s h := h.trans (keepsData_powerOnReset s)

theorem step_keepsData {s t : State} (h : step s = .next t) : KeepsData s t :=
  (eventClosed_keepsData s).step h (.refl s)

/-- Settles O56: the bounds are those of `KeepsData`. -/
theorem stepKeepsBounds : Obligations.StepKeepsBounds := by
  intro s t hstep
  have hkeeps := step_keepsData hstep
  exact ⟨fun ⟨hA, hB⟩ => ⟨hkeeps.queues .A hA, hkeeps.queues .B hB⟩, hkeeps.telemetry,
    fun hstaging l => hkeeps.staging l (hstaging l), fun hages l => hkeeps.ages l (hages l)⟩

/-- Settles O57: the canonical form in the manual's terms, and its step lemma. -/
theorem stepKeepsCanonicalMemory : Obligations.StepKeepsCanonicalMemory :=
  ⟨fun _ dflt c => Cells.wf_iff dflt c, fun _ c i => ⟨Cells.read_eq_find _ c i, rfl⟩,
    fun _ _ hstep => (step_keepsData hstep).memory⟩

end Sys2Proof.Machine

/-!
SUPPORT. The agreement of the cycle manager with the loop and the close computation (O58), through the operations that
move the control states.
-/
namespace Sys2Proof.Machine

/-! ## The agreement in terms of what calm changes keep -/

/-- The open record, its close and the working set that go with each state of the cycle manager (1.1). -/
def phaseHas : ManagerState → Option (Option CloseInfo) → Bool → Prop
  | .idle, closing, working => closing = none ∧ working = false
  | .armed, closing, working => closing = none ∧ working = false
  | .gathering, closing, working => closing = some none ∧ working = false
  | .closing, closing, working => (∃ info, closing = some (some info)) ∧ working = true

theorem cycleCoherent_iff (s : State) : s.cycleCoherent ↔
    phaseHas s.manager.state (s.manager.openRecord.map OpenRecord.closing) s.command.working.isSome := by
  unfold State.cycleCoherent
  cases s.manager.state with
  | closing =>
    simp only [phaseHas, Option.map_eq_some_iff]
    exact and_congr_left fun _ =>
      ⟨fun ⟨o, info, ho, hi⟩ => ⟨info, o, ho, hi⟩, fun ⟨info, o, ho, hi⟩ => ⟨o, info, ho, hi⟩⟩
  | _ => simp [phaseHas]

/-- The invariant of O58. -/
structure Coherent (s : State) : Prop where
  idle : s.idleTogether
  cycle : s.cycleCoherent

/-- A state in which the manager, the loop's being IDLE, the open record and the working set are those of a coherent state
is coherent. -/
theorem Coherent.congr {s t : State} (h : Coherent s) (hs : t.manager.state = s.manager.state)
    (hl : t.loop.loop = .idle ↔ s.loop.loop = .idle)
    (hc : t.manager.openRecord.map OpenRecord.closing = s.manager.openRecord.map OpenRecord.closing)
    (hw : t.command.working.isSome = s.command.working.isSome) : Coherent t := by
  obtain ⟨hidle, hcycle⟩ := h
  refine ⟨?_, ?_⟩
  · rw [State.idleTogether, hs, hl]
    exact hidle
  · rw [cycleCoherent_iff, hs, hc, hw, ← cycleCoherent_iff]
    exact hcycle

theorem Coherent.of_keepsControl {s t : State} (h : Coherent s) (k : KeepsControl s t) : Coherent t :=
  h.congr k.state (by rw [k.loop]) k.closing k.working

/-- With no cycle open, a coherent state holds no open record and no working set. -/
theorem Coherent.of_not_open {s : State} (h : Coherent s) (ho : s.cycleIsOpen = false) :
    s.manager.openRecord = none ∧ s.command.working.isSome = false := by
  obtain ⟨-, hcycle⟩ := h
  rw [cycleCoherent_iff] at hcycle
  unfold State.cycleIsOpen at ho
  cases hs : s.manager.state <;> simp_all [phaseHas]

/-- A coherent state whose loop runs and whose manager has no cycle open is ARMED. -/
theorem Coherent.armed {s : State} (h : Coherent s) (ho : s.cycleIsOpen = false) (hl : s.loop.loop ≠ .idle) :
    s.manager.state = .armed := by
  obtain ⟨hidle, -⟩ := h
  have hne : s.manager.state ≠ .idle := fun hs => hl (hidle.mp hs)
  unfold State.cycleIsOpen at ho
  cases hs : s.manager.state <;> simp_all

theorem coherent_idle {s : State} (hs : s.manager.state = .idle) (hl : s.loop.loop = .idle)
    (hr : s.manager.openRecord = none) (hw : s.command.working.isSome = false) : Coherent s := by
  refine ⟨by simp [State.idleTogether, hs, hl], ?_⟩
  rw [cycleCoherent_iff, hs, hr]
  exact ⟨rfl, hw⟩

theorem coherent_armed {s : State} (hs : s.manager.state = .armed) (hl : s.loop.loop ≠ .idle)
    (hr : s.manager.openRecord = none) (hw : s.command.working.isSome = false) : Coherent s := by
  refine ⟨by simp [State.idleTogether, hs, hl], ?_⟩
  rw [cycleCoherent_iff, hs, hr]
  exact ⟨rfl, hw⟩

/-! ## Trips, opens and closes -/

theorem requestTrip_idle_iff (c : TripCause) (s : State) : (requestTrip c s).loop.loop = .idle ↔ s.loop.loop = .idle := by
  have hhold : (requestTrip.holdTrip c s).loop.loop = s.loop.loop := by
    unfold requestTrip.holdTrip
    split
    · rfl
    · unfold withdrawRequest
      split <;> simp
  unfold requestTrip
  split
  · exact Iff.rfl
  · unfold takeTrip
    split
    · next h => simp [h]
    · simp
  · rw [hhold]
  · rw [hhold]

theorem Coherent.requestTrip {s : State} (h : Coherent s) (c : TripCause) : Coherent (requestTrip c s) := by
  obtain ⟨-, -, -, hm, -, -, -, -, hcommand, -⟩ := requestTrip_keeps c s
  exact h.congr (by rw [hm]) (requestTrip_idle_iff c s) (by rw [hm]) (by rw [hcommand])

/-- No slot treatment moves the loop to or from IDLE. -/
theorem treatSlot_idle_iff (x : LoopState) (st : Quad (Option AttachStatus)) (l : LinkId) (s : State) :
    (treatSlot x st l s).loop.loop = .idle ↔ s.loop.loop = .idle := by
  have hpost : ∀ c u, (postSlotChange l c u).loop = u.loop := by
    intro c u
    unfold postSlotChange
    split <;> rfl
  unfold treatSlot
  dsimp only
  split
  · rw [requestTrip_idle_iff, hpost]
    rfl
  · rw [hpost]
    rfl

theorem treatSlots_idle_iff (o : OpenRecord) (s : State) :
    (treatSlots o s).loop.loop = .idle ↔ s.loop.loop = .idle := by
  have hkeeps := forLinks_keeps (fun u : State => u.loop.loop = .idle) (treatSlot o.opened.loop o.statuses)
    (fun l u => propext (treatSlot_idle_iff _ _ l u)) links (enterClosing s)
  exact iff_of_eq hkeeps

theorem Coherent.closeCycle {s : State} (h : Coherent s) (c : CloseCause) (hs : s.manager.state = .gathering) :
    Coherent (closeCycle c s) := by
  obtain ⟨hidle, hcycle⟩ := h
  simp only [State.cycleCoherent, hs] at hcycle
  obtain ⟨⟨o, ho, -⟩, -⟩ := hcycle
  have hm := closeCycle_manager c s o ho
  obtain ⟨-, hloop, -⟩ := closeCycle_slots c s o ho
  obtain ⟨-, -, -, hwork⟩ := closeCycle_engine c s o ho
  refine ⟨?_, ?_⟩
  · rw [State.idleTogether, hs] at hidle
    rw [State.idleTogether, hm, hloop, treatSlots_idle_iff]
    exact iff_of_false nofun (fun hl => nomatch hidle.mpr hl)
  · rw [cycleCoherent_iff, hm, hwork]
    exact ⟨⟨_, rfl⟩, rfl⟩

/-- A cycle opened in ARMED, with no working set, leaves a coherent state. -/
theorem Coherent.openCycle {s : State} (h : Coherent s) (c : OpenCause) (b : Bool) (hs : s.manager.state = .armed) :
    Coherent (openCycle c b s) := by
  obtain ⟨hidle, hcycle⟩ := h
  rw [cycleCoherent_iff, hs] at hcycle
  obtain ⟨-, hwork⟩ := hcycle
  rw [State.idleTogether, hs] at hidle
  obtain ⟨o, ho, -, -, -, -, hloop, -, -, -, hgather, hclose⟩ := openCycle_spec c b s
  by_cases hx : ∃ l, ExpectedNow s l
  · obtain ⟨hstate, -, hnone, hcommand, -⟩ := hgather hx
    refine ⟨?_, ?_⟩
    · rw [State.idleTogether, hstate, hloop, ← hidle]
      exact iff_of_false nofun nofun
    · rw [cycleCoherent_iff, hstate, ho, hcommand]
      exact ⟨congrArg some hnone, hwork⟩
  · obtain ⟨hstate, -, ⟨info, hinfo, -⟩, hworking, -⟩ := hclose (fun l hl => hx ⟨l, hl⟩)
    refine ⟨?_, ?_⟩
    · rw [State.idleTogether, hstate, hloop, ← hidle]
      exact iff_of_false nofun nofun
    · rw [cycleCoherent_iff, hstate, ho, hworking]
      exact ⟨⟨info, congrArg some hinfo⟩, rfl⟩

theorem openingClosed_coherent : OpeningClosed Coherent :=
  ⟨fun hc h => h.of_keepsControl hc.control, fun c b _ hs h => h.openCycle c b hs⟩

/-! ## New timing settings outside ARMED -/

/-- Outside ARMED no timing settings open a cycle: they keep the control states. -/
theorem openingClosed_outsideArmed (s₀ : State) (hs : s₀.manager.state ≠ .armed) : OpeningClosed (KeepsControl s₀) :=
  ⟨fun hc h => h.trans hc.control, fun _ _ _ harmed h => absurd (h.state.symm.trans harmed) hs⟩

theorem keepsControl_takeHeldTiming {s : State} (hs : s.manager.state ≠ .armed) : KeepsControl s (takeHeldTiming s) := by
  unfold takeHeldTiming
  split
  · exact .refl s
  · exact (openingClosed_outsideArmed s hs).applyTiming (.refl s)

theorem keepsControl_takeHeldSettings {s : State} (hs : s.manager.state ≠ .armed) :
    KeepsControl s (takeHeldSettings s) := by
  have hothers := (calm_takeHeldOthers s).control
  exact hothers.trans (keepsControl_takeHeldTiming (by rwa [hothers.state]))

/-! ## Entering ARMED and IDLE -/

/-- The state in which ARMED is entered, before a latched trigger or a lead frame opens a cycle (R5, R12). -/
theorem enterArmed_closed {P : State → Prop} (hP : OpeningClosed P) {s : State}
    (h : P (s.onManager (fun m => { m with state := .armed }))) : P (enterArmed s) := by
  unfold enterArmed
  split
  · refine hP.openCycle _ _ _ rfl (hP.calm ?_ h)
    exact (calm_onManager (f := fun m => { m with latch := none }) rfl rfl).trans (calm_onManagerCounters _ _)
  · dsimp only
    split
    · split
      · exact hP.openCycle _ _ _ rfl h
      · exact hP.calm (calm_startFallback _) h
    · exact h

/-- With no open record and no working set, ARMED is entered coherently while the loop runs. -/
theorem coherent_enterArmed {s : State} (hl : s.loop.loop ≠ .idle) (hr : s.manager.openRecord = none)
    (hw : s.command.working.isSome = false) : Coherent (enterArmed s) :=
  enterArmed_closed openingClosed_coherent (coherent_armed rfl hl hr hw)

theorem managerToIdle_states (s : State) : (managerToIdle s).manager.state = .idle ∧
    (managerToIdle s).manager.openRecord = s.manager.openRecord := by
  simp [managerToIdle, dropLatch]

theorem coherent_stopCycles {s : State} (hl : s.loop.loop = .idle) (hr : s.manager.openRecord = none)
    (hw : s.command.working.isSome = false) : Coherent (stopCycles s) := by
  obtain ⟨hstate, hrecord⟩ := managerToIdle_states s
  exact coherent_idle hstate (by simpa [stopCycles, flushReceivers] using hl) (hrecord.trans hr)
    (by simpa [stopCycles, flushReceivers] using hw)

/-! ## The boundary -/

/-- What the close computation hands to the boundary: the manager still CLOSING, its record and its working set gone. -/
theorem handResults_control (w : WorkingSet) (o : OpenInfo) (info : CloseInfo) (s : State) :
    (handResults w o info s).manager.state = s.manager.state ∧ (handResults w o info s).manager.openRecord = none ∧
      (handResults w o info s).command.working.isSome = false ∧ (handResults w o info s).loop = s.loop ∧
      (handResults w o info s).stores = s.stores ∧
      ∀ p, ((handResults w o info s).ports.get p).activity = (s.ports.get p).activity := by
  obtain ⟨hloop, hstores, hcommand, -, hmanager⟩ := handResults_spec w o info s
  refine ⟨by rw [hmanager], by rw [hmanager], by rw [hcommand]; rfl, hloop, hstores, fun p => ?_⟩
  have hclose : (handResults w o info s).ports = (offloadClose o.cycle
      ((s.onCommand (CommandUnit.commit (closeResult w))).onMirror
        (handOver (closedVector (closeResult w) w o.cycle)))).ports := by
    simp [handResults, completeRecord, captureClose]
  obtain ⟨-, -, -, -, -, -, -, -, hports⟩ := offloadClose_keepsOthers o.cycle
    ((s.onCommand (CommandUnit.commit (closeResult w))).onMirror (handOver (closedVector (closeResult w) w o.cycle)))
  rw [hclose, hports]
  simp

theorem takePendingLoop_working (s : State) : (takePendingLoop s).command.working = s.command.working := by
  unfold takePendingLoop
  split
  · simp
  · split <;> simp [takeRequest]

/-- From CLOSING, with the record and the working set gone, the boundary leaves a coherent state (R20). -/
theorem coherent_boundary {s : State} (hs : s.manager.state = .closing) (hr : s.manager.openRecord = none)
    (hw : s.command.working.isSome = false) : Coherent (boundary s) := by
  obtain ⟨hmanager, hcommand, -, -⟩ := takePendingApply_keepsOthers s
  obtain ⟨hmanager', -⟩ := takePendingLoop_keepsOthers (takePendingApply s)
  have hwork := takePendingLoop_working (takePendingApply s)
  have hkeep := keepsControl_takeHeldSettings (s := takePendingLoop (takePendingApply s))
    (by rw [hmanager', hmanager, hs]; simp)
  have hrecord : (takeHeldSettings (takePendingLoop (takePendingApply s))).manager.openRecord = none := by
    have hclosing := hkeep.closing
    rw [hmanager', hmanager, hr] at hclosing
    exact Option.map_eq_none_iff.mp hclosing
  have hworking : (takeHeldSettings (takePendingLoop (takePendingApply s))).command.working.isSome = false := by
    rw [hkeep.working, hwork, hcommand, hw]
  unfold boundary leaveBoundary
  split
  · next hl => exact coherent_stopCycles hl hrecord hworking
  · next hl => exact coherent_enterArmed hl hrecord hworking

theorem Coherent.closeComputationEnd {s : State} (h : Coherent s) : Coherent (closeComputationEnd s) := by
  unfold Machine.closeComputationEnd
  split
  · next w o hw ho =>
    split
    · next info hinfo =>
      have hs : s.manager.state = .closing := by
        have hcycle := (cycleCoherent_iff s).mp h.cycle
        rw [ho, hw] at hcycle
        cases hst : s.manager.state <;> simp_all [phaseHas]
      obtain ⟨hstate, hrecord, hworking, -⟩ := handResults_control w o.opened info s
      exact coherent_boundary (hstate.trans hs) hrecord hworking
    · exact h
  · exact h

/-! ## The masters' commands and the resets -/

/-- A change of the ports, stores or the pending request and trip leaves a coherent state coherent. -/
theorem Coherent.of_same {s t : State} (h : Coherent s) (hm : t.manager = s.manager) (hl : t.loop.loop = s.loop.loop)
    (hc : t.command = s.command) : Coherent t :=
  h.congr (by rw [hm]) (by rw [hl]) (by rw [hm]) (by rw [hc])

theorem Coherent.load {s : State} (h : Coherent s) (p : PortId) (x : LoadParams) : Coherent (load p x s) := by
  unfold Machine.load
  split
  · exact h.of_same rfl rfl rfl
  · split_ifs <;> exact h.of_same rfl rfl rfl

theorem Coherent.loadWordWrite {s : State} (h : Coherent s) : Coherent (loadWordWrite s) := by
  unfold Machine.loadWordWrite
  split
  · exact h
  · dsimp only
    split <;> exact h.of_same rfl rfl rfl

theorem Coherent.apply {s : State} (h : Coherent s) (p : PortId) (x : Word) : Coherent (Machine.apply p x s) := by
  unfold Machine.apply
  split_ifs <;> exact h.of_same rfl rfl rfl

theorem withdrawRequest_loop (r : Reason) (q : Option PortId) (s : State) :
    (withdrawRequest r q s).loop = { s.loop with request := none } := by
  unfold withdrawRequest
  split
  · next h => rw [← h]
  · rfl

theorem validFrom_ne_idle {t : RequestTarget} {x : LoopState} (h : t.validFrom x = true) : x ≠ .idle := by
  rintro rfl
  cases t <;> cases h

theorem loopState_eq_idle_iff (t : RequestTarget) : t.loopState = .idle ↔ t = .stop := by
  cases t <;> simp [RequestTarget.loopState]

/-- A request taken at once in ARMED leaves ARMED only for STOP (R117). -/
theorem Coherent.takeAtOnce {s : State} (h : Coherent s) {t : RequestTarget} (p : PortId)
    (ho : s.cycleIsOpen = false) (hv : t.validFrom s.loop.loop = true) : Coherent (takeAtOnce t p s) := by
  obtain ⟨hrecord, hwork⟩ := h.of_not_open ho
  have harmed := h.armed ho (validFrom_ne_idle hv)
  have hloop : (takeRequest t p s).loop.loop = t.loopState := by simp [takeRequest]
  have hmanager : (takeRequest t p s).manager = s.manager := by simp [takeRequest]
  have hworking : (takeRequest t p s).command.working = s.command.working := by simp [takeRequest]
  unfold Machine.takeAtOnce
  dsimp only
  split
  · next hstop =>
    exact coherent_stopCycles (hloop.trans ((loopState_eq_idle_iff t).mpr hstop)) (by rw [hmanager, hrecord])
      (by rw [hworking, hwork])
  · next hstop =>
    exact coherent_armed (by rw [hmanager, harmed]) (by rw [hloop]; exact fun hi => hstop ((loopState_eq_idle_iff t).mp hi))
      (by rw [hmanager, hrecord]) (by rw [hworking, hwork])

theorem Coherent.loopRequest {s : State} (h : Coherent s) (t : RequestTarget) (p : PortId) :
    Coherent (loopRequest t p s) := by
  unfold Machine.loopRequest
  split
  · exact h.of_same rfl rfl rfl
  · split
    · exact h.of_same rfl rfl rfl
    · next hv =>
      split
      · refine h.of_same ?_ ?_ ?_
        · simp [holdRequest]
        · simp [holdRequest, withdrawRequest_loop]
        · simp [holdRequest]
      · next ho => exact h.takeAtOnce p (by simpa using ho) (by simpa using hv)

/-- The state in which START lets the manager enter ARMED: every block started, LOOP-CHANGE and the slot changes posted. -/
def startedBlocks (p : PortId) (s : State) : State :=
  startBlocks (forLinks startSlot links
    (((s.onLoop (fun c => { c with loop := .opened, request := none })).onManager Manager.clear).post
      (.loopChange s.loop.loop .opened (.request p))))

theorem takeStart_eq (p : PortId) (s : State) : takeStart p s =
    enterArmed (startPeriod (((startedBlocks p s).complete p codeLoop (loopData s.loop.loop .opened 0)).onManager
      (fun m => { m with state := .armed }))) := rfl

theorem calm_startSlot (l : LinkId) (s : State) : Calm s (startSlot l s) := by
  have hslot : Calm s (s.onSlot l (fun x => { x with
      age := 0
      cadence := x.policy.phase
      state := x.startState })) := by
    refine calm_onSlot fun h => ?_
    obtain ⟨-, hlimit, hheld⟩ := h
    exact ⟨Nat.zero_le _, hlimit, hheld⟩
  unfold startSlot
  dsimp only
  split
  · exact hslot
  · exact hslot.trans (calm_post _ _)

/-- The blocks that START resets keep the control states of the loop just made OPEN. -/
theorem keepsControl_startedBlocks (p : PortId) (s : State) :
    KeepsControl ((s.onLoop (fun c => { c with loop := .opened, request := none })).onManager Manager.clear)
      (startedBlocks p s) := by
  have hblocks : ∀ u, KeepsControl u (startBlocks u) := fun u =>
    ⟨rfl, rfl, rfl, rfl, rfl, rfl, fun _ _ => Iff.rfl⟩
  exact ((calm_post _ _).control.trans (Calm.forLinks calm_startSlot links _).control).trans (hblocks _)

theorem startPeriod_states (s : State) : (startPeriod s).manager.state = s.manager.state ∧
    (startPeriod s).manager.openRecord = s.manager.openRecord := by
  unfold startPeriod
  split <;> exact ⟨rfl, rfl⟩

theorem Coherent.loopStart {s : State} (h : Coherent s) (p : PortId) : Coherent (loopStart p s) := by
  unfold Machine.loopStart
  split_ifs with htrip hloop hstart
  iterate 3 exact h.of_same rfl rfl rfl
  have hclosed : s.cycleIsOpen = false := by
    have hs := h.idle.mpr (not_not.mp hloop)
    simp [State.cycleIsOpen, hs]
  obtain ⟨-, hwork⟩ := h.of_not_open hclosed
  have hkeep := keepsControl_startedBlocks p s
  obtain ⟨-, hrecord⟩ := startPeriod_states (((startedBlocks p s).complete p codeLoop
    (loopData s.loop.loop .opened 0)).onManager (fun m => { m with state := .armed }))
  rw [takeStart_eq]
  refine coherent_enterArmed ?_ ?_ ?_
  · simp only [startPeriod_keeps, State.onManager_loop, State.complete_loop, hkeep.loop]
    simp
  · rw [hrecord]
    exact Option.map_eq_none_iff.mp hkeep.closing
  · simp only [startPeriod_keeps, State.onManager_command, State.complete_command, hkeep.working]
    exact hwork

theorem Coherent.resetPart {s : State} (p : PortId) : Coherent (resetPart p s) := by
  obtain ⟨hstate, -⟩ := managerToIdle_states { resetOtherPort p.other s with
    ports := (resetOtherPort p.other s).ports.map Port.clearQueue }
  have hkeep := keepsControl_takeHeldTiming (s := (managerToIdle { resetOtherPort p.other s with
    ports := (resetOtherPort p.other s).ports.map Port.clearQueue }).onManager (fun m => { m with openRecord := none }))
    (by rw [State.onManager_manager, hstate]; simp)
  refine coherent_idle (hkeep.state.trans hstate) rfl ?_ rfl
  exact Option.map_eq_none_iff.mp hkeep.closing

/-! ## Every step keeps the agreement -/

theorem eventClosed_coherent : EventClosed Coherent where
  toOpeningClosed := openingClosed_coherent
  requestTrip c _ h := h.requestTrip c
  closeCycle c _ hs h := h.closeCycle c hs
  closeComputationEnd _ h := h.closeComputationEnd
  loopStart p _ _ h := h.loopStart p
  loopRequest t p _ _ h := h.loopRequest t p
  load p x _ _ h := h.load p x
  loadWordWrite _ h := h.loadWordWrite
  apply p x _ _ h := h.apply p x
  resetPart p _ _ _ := Coherent.resetPart p
  powerOnReset _ _ := coherent_idle rfl rfl rfl rfl

/-- Settles O58: the agreement is an event-closed property. -/
theorem stepKeepsCycleCoherent : Obligations.StepKeepsCycleCoherent := by
  intro s t hstep hidle hcycle
  obtain ⟨hidle', hcycle'⟩ := eventClosed_coherent.step hstep ⟨hidle, hcycle⟩
  exact ⟨hidle', hcycle'⟩

end Sys2Proof.Machine

/-!
SUPPORT. Pending work and the ports that execute it (O59), through the operations that move the control states.
-/
namespace Sys2Proof.Machine

/-! ## The port a pending command belongs to -/

/-- The port whose command of the given kind is pending, if one is. -/
def State.owner (s : State) : ExecutingCommand → Option PortId
  | .loop => s.loop.request.map LoopRequest.port
  | .apply => s.stores.pendingApply.map PendingApply.port
  | .load => s.stores.load.job.map LoadJob.port

theorem load_job_eq_some {e : LoadEngine} {j : LoadJob} : e.job = some j ↔ e = .loading j := by
  cases e <;> simp [LoadEngine.job]

theorem executionsHeld_iff (s : State) : s.executionsHeld ↔
    ∀ p c, (s.ports.get p).activity = .executing c ↔ s.owner c = some p := by
  unfold State.executionsHeld
  refine forall_congr' fun p => ⟨fun ⟨hloop, happly, hload⟩ c => ?_, fun h => ⟨?_, ?_, ?_⟩⟩
  · cases c with
    | loop => simpa [State.owner] using hloop
    | apply => simpa [State.owner] using happly
    | load => simpa [State.owner, load_job_eq_some] using hload
  · simpa [State.owner] using h .loop
  · simpa [State.owner] using h .apply
  · simpa [State.owner, load_job_eq_some] using h .load

/-- The executions stay matched where neither the ports' executions nor the owners change. -/
theorem executionsHeld_congr {s t : State} (h : s.executionsHeld)
    (hx : ∀ p c, (t.ports.get p).activity = .executing c ↔ (s.ports.get p).activity = .executing c)
    (ho : ∀ c, t.owner c = s.owner c) : t.executionsHeld := by
  rw [executionsHeld_iff] at h ⊢
  intro p c
  rw [hx, ho, h]

theorem executionsHeld_of_keepsControl {s t : State} (h : s.executionsHeld) (k : KeepsControl s t) :
    t.executionsHeld :=
  executionsHeld_congr h k.executing fun c => by cases c <;> simp only [State.owner, k.loop, k.pendingApply, k.load]

theorem executionsHeld_onManager {s : State} (h : s.executionsHeld) (f : Manager → Manager) :
    (s.onManager f).executionsHeld :=
  executionsHeld_congr h (fun _ _ => Iff.rfl) fun c => by cases c <;> rfl

/-- The pending command `c` ends: its port gets a result, and nothing else is pending or executing anew. -/
theorem executionsHeld_release {s t : State} {p : PortId} {c : ExecutingCommand} (h : s.executionsHeld)
    (hc : s.owner c = some p) (hp : ∀ d, (t.ports.get p).activity ≠ .executing d)
    (hq : ∀ q, q ≠ p → (t.ports.get q).activity = (s.ports.get q).activity) (hnone : t.owner c = none)
    (hothers : ∀ d, d ≠ c → t.owner d = s.owner d) : t.executionsHeld := by
  rw [executionsHeld_iff] at h ⊢
  have hunique : ∀ d, s.owner d = some p → d = c := by
    intro d hd
    have hd' := (h p d).mpr hd
    rw [(h p c).mpr hc] at hd'
    cases hd'
    rfl
  intro q d
  by_cases hqp : q = p
  · subst hqp
    refine iff_of_false (hp d) fun hd => ?_
    by_cases hdc : d = c
    · subst hdc
      rw [hnone] at hd
      cases hd
    · rw [hothers d hdc] at hd
      exact hdc (hunique d hd)
  · rw [hq q hqp, h]
    by_cases hdc : d = c
    · subst hdc
      rw [hc, hnone]
      exact iff_of_false (fun hx => hqp (Option.some.inj hx).symm) nofun
    · rw [hothers d hdc]

/-- A command `c` of a port that executes none becomes pending where none of its kind was. -/
theorem executionsHeld_acquire {s t : State} {p : PortId} {c : ExecutingCommand} (h : s.executionsHeld)
    (hfree : ∀ d, (s.ports.get p).activity ≠ .executing d) (hnone : s.owner c = none)
    (hp : (t.ports.get p).activity = .executing c)
    (hq : ∀ q, q ≠ p → (t.ports.get q).activity = (s.ports.get q).activity) (hc : t.owner c = some p)
    (hothers : ∀ d, d ≠ c → t.owner d = s.owner d) : t.executionsHeld := by
  rw [executionsHeld_iff] at h ⊢
  intro q d
  by_cases hdc : d = c
  · subst hdc
    rw [hc]
    by_cases hqp : q = p
    · subst hqp
      exact iff_of_true hp rfl
    · rw [hq q hqp, h, hnone]
      exact iff_of_false nofun (fun hx => hqp (Option.some.inj hx).symm)
  · rw [hothers d hdc]
    by_cases hqp : q = p
    · subst hqp
      rw [hp, ← h]
      exact iff_of_false (fun hx => hdc (PortActivity.executing.inj hx).symm) (hfree d)
    · rw [hq q hqp, h]

/-- With nothing pending and no port executing, the executions are matched. -/
theorem executionsHeld_idle {s : State} (hp : ∀ p c, (s.ports.get p).activity ≠ .executing c)
    (ho : ∀ c, s.owner c = none) : s.executionsHeld := by
  rw [executionsHeld_iff]
  intro p c
  rw [ho]
  exact iff_of_false (hp p c) nofun

/-! ## The results of the ports -/

theorem answer_activity_self (p : PortId) (r : ResultRecord) (s : State) (c : ExecutingCommand) :
    ((s.answer p r).ports.get p).activity ≠ .executing c := by
  simp [State.answer, State.onPort]

theorem answer_activity_other {p q : PortId} (r : ResultRecord) (s : State) (h : q ≠ p) :
    ((s.answer p r).ports.get q).activity = (s.ports.get q).activity := by
  simp [State.answer, State.onPort, Pair.get_set_ne _ _ h]

/-- The result of a port that executes nothing keeps the executions matched. -/
theorem executionsHeld_answer {s : State} {p : PortId} (h : s.executionsHeld)
    (hp : ∀ c, (s.ports.get p).activity ≠ .executing c) (r : ResultRecord) : (s.answer p r).executionsHeld :=
  executionsHeld_of_keepsControl h (calm_answer hp r).control

/-- Withdrawing the pending request ends it at its port. -/
theorem executionsHeld_withdrawRequest {s : State} (h : s.executionsHeld) (r : Reason) (q : Option PortId) :
    (withdrawRequest r q s).executionsHeld := by
  unfold withdrawRequest
  split
  · exact h
  · next x hx =>
    refine executionsHeld_release (c := .loop) (p := x.port) h ?_ (answer_activity_self _ _ _)
      (fun _ hq => answer_activity_other _ _ hq) rfl (fun d hd => ?_)
    · simp [State.owner, hx]
    · cases d with
      | loop => exact absurd rfl hd
      | apply => rfl
      | load => rfl

/-! ## Requests, trips and executions together -/

/-- What O59 keeps besides the waiting in a cycle. -/
structure LoopHeld (s : State) : Prop where
  one : s.oneLoopChange
  executions : s.executionsHeld

/-- The invariant of O59 with that of O58. -/
structure Held (s : State) : Prop where
  coherent : Coherent s
  loopHeld : LoopHeld s
  waits : s.waitsInCycle

theorem LoopHeld.of_keepsControl {s t : State} (h : LoopHeld s) (k : KeepsControl s t) : LoopHeld t := by
  obtain ⟨hone, hexec⟩ := h
  refine ⟨?_, executionsHeld_of_keepsControl hexec k⟩
  rw [State.oneLoopChange, k.loop]
  exact hone

theorem cycleIsOpen_congr {s t : State} (h : t.manager.state = s.manager.state) : t.cycleIsOpen = s.cycleIsOpen := by
  unfold State.cycleIsOpen
  rw [h]

theorem Held.of_keepsControl {s t : State} (h : Held s) (k : KeepsControl s t) : Held t := by
  obtain ⟨hcoherent, hloop, hwaits⟩ := h
  refine ⟨hcoherent.of_keepsControl k, hloop.of_keepsControl k, ?_⟩
  rw [State.waitsInCycle, cycleIsOpen_congr k.state, k.loop, k.pendingApply]
  exact hwaits

/-- With no cycle open nothing waits for a boundary. -/
theorem Held.nothingWaits {s : State} (h : Held s) (ho : s.cycleIsOpen = false) :
    s.loop.request = none ∧ s.loop.trip = none ∧ s.stores.pendingApply = none := by
  rcases h.waits with hopen | hnone
  · rw [ho] at hopen
    cases hopen
  · exact hnone

/-- A state with no request, trip or APPLY pending. -/
structure NothingWaits (s : State) : Prop where
  request : s.loop.request = none
  trip : s.loop.trip = none
  pendingApply : s.stores.pendingApply = none

theorem NothingWaits.held {s : State} (h : NothingWaits s) (hc : Coherent s) (hx : s.executionsHeld) : Held s :=
  ⟨hc, ⟨.inl h.request, hx⟩, .inr ⟨h.request, h.trip, h.pendingApply⟩⟩

/-- Any trip request keeps at most one of request and trip pending, and the executions matched (R123, R125). -/
theorem LoopHeld.requestTrip {s : State} (h : LoopHeld s) (c : TripCause) : LoopHeld (requestTrip c s) := by
  obtain ⟨hone, hexec⟩ := h
  have howner : ∀ f : LoopController → LoopController, (f s.loop).request = s.loop.request →
      ∀ d, (s.onLoop f).owner d = s.owner d := by
    intro f hf d
    cases d <;> simp [State.owner, hf]
  have htake : ∀ t, LoopHeld (takeTrip t s) := by
    intro t
    unfold takeTrip
    split
    · have hposted : LoopHeld (s.onLoop (fun c => { c with
          loop := .frozen
          trip := none
          lastTrip := some { cause := t.cause, additional := t.additional, cycle := s.manager.cycle,
                             time := s.manager.timebase, before := .closed } })) :=
        ⟨.inr rfl, executionsHeld_congr hexec (fun _ _ => Iff.rfl) (howner _ rfl)⟩
      exact hposted.of_keepsControl (calm_post _ _).control
    · exact ⟨.inr rfl, executionsHeld_congr hexec (fun _ _ => Iff.rfl) (howner _ rfl)⟩
  have hhold : LoopHeld (requestTrip.holdTrip c s) := by
    unfold requestTrip.holdTrip
    split
    · next t ht =>
      refine ⟨.inl ?_, executionsHeld_congr hexec (fun _ _ => Iff.rfl) (howner _ rfl)⟩
      exact hone.resolve_right (by rw [ht]; nofun)
    · have hwithdrawn := executionsHeld_withdrawRequest hexec .tripped none
      refine ⟨.inl ?_, executionsHeld_congr hwithdrawn (fun _ _ => Iff.rfl) fun d => by cases d <;> rfl⟩
      simp [withdrawRequest_loop]
  unfold Machine.requestTrip
  split
  · exact ⟨hone, hexec⟩
  · exact htake _
  · exact hhold
  · exact hhold

theorem Held.requestTrip {s : State} (h : Held s) (c : TripCause) : Held (requestTrip c s) := by
  refine ⟨h.coherent.requestTrip c, h.loopHeld.requestTrip c, ?_⟩
  obtain ⟨-, -, -, hmanager, -, -, -, hstores, -⟩ := requestTrip_keeps c s
  cases ho : s.cycleIsOpen with
  | true => exact .inl ((cycleIsOpen_congr (by rw [hmanager])).trans ho)
  | false =>
    obtain ⟨hrequest, htrip, happly⟩ := h.nothingWaits ho
    refine .inr ?_
    rw [hstores]
    unfold State.cycleIsOpen at ho
    unfold Machine.requestTrip
    cases hs : s.manager.state with
    | idle => exact ⟨hrequest, htrip, happly⟩
    | armed =>
      simp only [takeTrip]
      split <;> exact ⟨by simpa using hrequest, by simp, happly⟩
    | gathering => simp [hs] at ho
    | closing => simp [hs] at ho

/-! ## The close and the open of a cycle -/

theorem LoopHeld.treatSlot {s : State} (h : LoopHeld s) (x : LoopState) (st : Quad (Option AttachStatus)) (l : LinkId) :
    LoopHeld (treatSlot x st l s) := by
  have hslot : LoopHeld (s.onSlot l (fun _ => (closeSlot (st.get l) (s.slots.get l)).slot)) :=
    h.of_keepsControl ⟨rfl, rfl, rfl, rfl, rfl, rfl, fun _ _ => Iff.rfl⟩
  have hpost : ∀ c u, LoopHeld u → LoopHeld (postSlotChange l c u) := by
    intro c u hu
    unfold postSlotChange
    split
    · exact hu
    · exact hu.of_keepsControl (calm_post _ _).control
  unfold Machine.treatSlot
  dsimp only
  split
  · exact (hpost _ _ hslot).requestTrip _
  · exact hpost _ _ hslot

theorem LoopHeld.treatSlots {s : State} (h : LoopHeld s) (o : OpenRecord) : LoopHeld (treatSlots o s) := by
  have hall : ∀ (ls : List LinkId) (u : State), LoopHeld u →
      LoopHeld (forLinks (Machine.treatSlot o.opened.loop o.statuses) ls u) := by
    intro ls
    induction ls with
    | nil => exact fun u hu => hu
    | cons l ls ih => exact fun u hu => ih _ (hu.treatSlot _ _ l)
  obtain ⟨hone, hexec⟩ := h
  exact hall links _ ⟨hone, hexec⟩

theorem Held.closeCycle {s : State} (h : Held s) (c : CloseCause) (hs : s.manager.state = .gathering) :
    Held (closeCycle c s) := by
  have hcycle := h.coherent.cycle
  simp only [State.cycleCoherent, hs] at hcycle
  obtain ⟨⟨o, ho, -⟩, -⟩ := hcycle
  obtain ⟨-, hloop, hports⟩ := closeCycle_slots c s o ho
  obtain ⟨-, -, hstores, -⟩ := closeCycle_keeps c s
  obtain ⟨-, -, hstores', -⟩ := treatAll_keeps o s
  obtain ⟨hone, hexec⟩ := h.loopHeld.treatSlots o
  refine ⟨h.coherent.closeCycle c hs, ⟨?_, ?_⟩, .inl ?_⟩
  · rw [State.oneLoopChange, hloop]
    exact hone
  · refine executionsHeld_congr hexec (fun p d => by rw [hports]) fun d => ?_
    cases d <;> simp only [State.owner, hloop, hstores, hstores']
  · rw [cycleIsOpen_iff, closeCycle_manager c s o ho]
    exact .inr rfl

theorem Held.openCycle {s : State} (h : Held s) (c : OpenCause) (b : Bool) (hs : s.manager.state = .armed) :
    Held (openCycle c b s) := by
  obtain ⟨hloop, hports, -, -⟩ := openCycle_keepsCommitted c b s
  obtain ⟨-, -, hstores, -⟩ := openCycle_keeps c b s
  obtain ⟨hone, hexec⟩ := h.loopHeld
  refine ⟨h.coherent.openCycle c b hs, ⟨?_, ?_⟩, .inl ?_⟩
  · rw [State.oneLoopChange, hloop]
    exact hone
  · refine executionsHeld_congr hexec (fun p d => by rw [hports]) fun d => ?_
    cases d <;> simp only [State.owner, hloop, hstores]
  · rw [cycleIsOpen_iff]
    exact openCycle_state c b s

theorem openingClosed_held : OpeningClosed Held :=
  ⟨fun hc h => h.of_keepsControl hc.control, fun c b _ hs h => h.openCycle c b hs⟩

/-! ## Stores -/

/-- An operation of a master's command that changes neither the manager nor the loop keeps the rest of the invariant. -/
theorem Held.of_executions {s t : State} (h : Held s) (hm : t.manager = s.manager) (hl : t.loop = s.loop)
    (hc : t.command = s.command) (hx : t.executionsHeld)
    (hw : s.cycleIsOpen = false → t.stores.pendingApply = none) : Held t := by
  refine ⟨h.coherent.of_same hm (by rw [hl]) hc, ⟨?_, hx⟩, ?_⟩
  · rw [State.oneLoopChange, hl]
    exact h.loopHeld.one
  · rw [State.waitsInCycle, cycleIsOpen_congr (s := s) (by rw [hm]), hl]
    cases ho : s.cycleIsOpen with
    | true => exact .inl rfl
    | false =>
      obtain ⟨hrequest, htrip, -⟩ := h.nothingWaits ho
      exact .inr ⟨hrequest, htrip, hw ho⟩

theorem Held.answer {s : State} (h : Held s) {p : PortId} (hp : (s.ports.get p).takesCommand = true) (r : ResultRecord) :
    Held (s.answer p r) :=
  h.of_keepsControl (calm_answer (not_executing_of_takesCommand hp) r).control

/-- A command that starts to execute at a port becomes its pending command. -/
theorem executionsHeld_execute {s u : State} {p : PortId} {c : ExecutingCommand} (h : s.executionsHeld)
    (hp : (s.ports.get p).takesCommand = true) (hports : u.ports = s.ports) (hnone : s.owner c = none)
    (hc : u.owner c = some p) (hothers : ∀ d, d ≠ c → u.owner d = s.owner d) : (u.execute p c).executionsHeld := by
  refine executionsHeld_acquire h (not_executing_of_takesCommand hp) hnone (by simp [State.execute, State.onPort])
    (fun q hq => ?_) (hc ▸ by cases c <;> rfl) (fun d hd => (by cases d <;> rfl : _ = u.owner d).trans (hothers d hd))
  simp [State.execute, State.onPort, Pair.get_set_ne _ _ hq, hports]

theorem Held.load {s : State} (h : Held s) {p : PortId} (x : LoadParams)
    (hp : (s.ports.get p).takesCommand = true) : Held (load p x s) := by
  unfold Machine.load
  split
  · exact h.answer hp _
  · split_ifs with hrange hbusy hpending
    iterate 3 exact h.answer hp _
    refine h.of_executions rfl rfl rfl ?_ (fun ho => (h.nothingWaits ho).2.2)
    have hidle : s.owner .load = none := by
      unfold StoreController.loadBusy at hbusy
      cases hl : s.stores.load <;> simp_all [State.owner, LoadEngine.job]
    refine executionsHeld_execute h.loopHeld.executions hp rfl hidle rfl fun d hd => ?_
    cases d with
    | load => exact absurd rfl hd
    | apply => rfl
    | loop => rfl

theorem Held.loadWordWrite {s : State} (h : Held s) : Held (loadWordWrite s) := by
  unfold Machine.loadWordWrite
  split
  · exact h
  · next j hj =>
    have hexec := h.loopHeld.executions
    dsimp only
    split
    · refine h.of_executions rfl rfl rfl ?_ (fun ho => (h.nothingWaits ho).2.2)
      refine executionsHeld_congr hexec (fun _ _ => Iff.rfl) fun d => ?_
      cases d <;> simp [State.owner, LoadEngine.job, hj]
    · refine h.of_executions rfl rfl rfl ?_ (fun ho => (h.nothingWaits ho).2.2)
      refine executionsHeld_release (c := .load) (p := j.port) hexec (by simp [State.owner, LoadEngine.job, hj])
        (answer_activity_self _ _ _) (fun _ hq => answer_activity_other _ _ hq) rfl fun d hd => ?_
      cases d with
      | load => exact absurd rfl hd
      | apply => rfl
      | loop => rfl

theorem Held.apply {s : State} (h : Held s) {p : PortId} (x : Word) (hp : (s.ports.get p).takesCommand = true) :
    Held (Machine.apply p x s) := by
  unfold Machine.apply
  split_ifs with hsel hpending hload ho
  iterate 3 exact h.answer hp _
  · have hnone : s.owner .apply = none := by
      simp only [Option.not_isSome_iff_eq_none] at hpending
      simp [State.owner, hpending]
    refine h.of_executions rfl rfl rfl ?_ (fun hclosed => by rw [ho] at hclosed; cases hclosed)
    refine executionsHeld_execute h.loopHeld.executions hp rfl hnone rfl fun d hd => ?_
    cases d with
    | apply => exact absurd rfl hd
    | load => rfl
    | loop => rfl
  · refine h.of_executions rfl rfl rfl ?_ (fun hclosed => (h.nothingWaits hclosed).2.2)
    have hstores : (s.onStores (exchange (x.extractLsb' 0 9))).executionsHeld :=
      executionsHeld_congr h.loopHeld.executions (fun _ _ => Iff.rfl) fun d => by cases d <;> rfl
    exact executionsHeld_answer hstores (not_executing_of_takesCommand hp) _

/-! ## The loop requests -/

theorem executionsHeld_stopCycles {s : State} (h : s.executionsHeld) : (stopCycles s).executionsHeld :=
  executionsHeld_congr h (fun p c => by simp [stopCycles, flushReceivers]) fun d => by
    cases d <;> simp [State.owner, stopCycles, flushReceivers]

/-- A request taken with none pending answers its port and leaves none pending. -/
theorem executionsHeld_takeRequest {s : State} {t : RequestTarget} {p : PortId} (h : s.executionsHeld)
    (hp : ∀ c, (s.ports.get p).activity ≠ .executing c) (hr : s.loop.request = none) :
    (takeRequest t p s).executionsHeld := by
  have hloop : ((s.onLoop (fun c => { c with loop := t.loopState, request := none })).onCommand
      (fun c => { c with u := t.integrator c.u })).executionsHeld :=
    executionsHeld_congr h (fun _ _ => Iff.rfl) fun d => by cases d <;> simp [State.owner, hr]
  have hposted := executionsHeld_of_keepsControl hloop
    (calm_post (.loopChange s.loop.loop t.loopState (.request p)) _).control
  refine executionsHeld_answer hposted (fun c hc => hp c ?_) _
  exact ((calm_post _ _).control.executing p c).mp hc

theorem Held.takeAtOnce {s : State} (h : Held s) {t : RequestTarget} {p : PortId}
    (hp : (s.ports.get p).takesCommand = true) (ho : s.cycleIsOpen = false) (hv : t.validFrom s.loop.loop = true) :
    Held (takeAtOnce t p s) := by
  obtain ⟨hrequest, htrip, happly⟩ := h.nothingWaits ho
  have hexec := executionsHeld_takeRequest (t := t) h.loopHeld.executions (not_executing_of_takesCommand hp) hrequest
  have hwaits : NothingWaits (Machine.takeAtOnce t p s) := by
    unfold Machine.takeAtOnce
    dsimp only
    split <;> constructor <;> simp [takeRequest, stopCycles, flushReceivers, htrip, happly]
  refine hwaits.held (h.coherent.takeAtOnce p ho hv) ?_
  unfold Machine.takeAtOnce
  dsimp only
  split
  · exact executionsHeld_stopCycles hexec
  · exact hexec

theorem Held.holdRequest {s : State} (h : Held s) {t : RequestTarget} {p : PortId}
    (hp : (s.ports.get p).takesCommand = true) (ho : s.cycleIsOpen = true) (ht : s.loop.trip = none)
    (hc : Coherent (holdRequest t p s)) : Held (holdRequest t p s) := by
  have hfree := not_executing_of_takesCommand hp
  have hwithdrawn := executionsHeld_withdrawRequest h.loopHeld.executions .superseded (some p)
  have hpA : ∀ c, ((withdrawRequest .superseded (some p) s).ports.get p).activity ≠ .executing c := by
    intro c
    unfold withdrawRequest
    split
    · exact hfree c
    · next r _ =>
      by_cases hrp : p = r.port
      · rw [hrp]
        exact answer_activity_self _ _ _ c
      · rw [State.withdraw, answer_activity_other _ _ hrp]
        exact hfree c
  have hloop := withdrawRequest_loop .superseded (some p) s
  refine ⟨hc, ⟨.inr ?_, ?_⟩, .inl ?_⟩
  · simp [Machine.holdRequest, hloop, ht]
  · refine executionsHeld_acquire (c := .loop) (p := p) hwithdrawn hpA (by simp [State.owner, hloop])
      (by simp [Machine.holdRequest, State.execute, State.onPort]) (fun q hq => ?_)
      (by simp [State.owner, Machine.holdRequest]) (fun d hd => ?_)
    · simp [Machine.holdRequest, State.execute, State.onPort, Pair.get_set_ne _ _ hq]
    · cases d with
      | loop => exact absurd rfl hd
      | apply => simp [State.owner, Machine.holdRequest]
      | load => simp [State.owner, Machine.holdRequest]
  · rw [← ho]
    exact cycleIsOpen_congr (by simp [Machine.holdRequest])

theorem Held.loopRequest {s : State} (h : Held s) (t : RequestTarget) {p : PortId}
    (hp : (s.ports.get p).takesCommand = true) : Held (loopRequest t p s) := by
  have hcoherent := h.coherent.loopRequest t p
  unfold Machine.loopRequest at hcoherent ⊢
  split_ifs at hcoherent ⊢ with htrip hv ho
  · exact h.answer hp _
  · exact h.answer hp _
  · exact h.holdRequest hp ho (Option.not_isSome_iff_eq_none.mp htrip) hcoherent
  · exact h.takeAtOnce hp (by simpa using ho) (by simpa using hv)

/-- Making an ARMED manager ARMED changes nothing. -/
theorem onManager_of_armed {s : State} (h : s.manager.state = .armed) :
    s.onManager (fun m => { m with state := .armed }) = s := by
  rw [State.onManager, ← h]

theorem Held.loopStart {s : State} (h : Held s) {p : PortId} (hp : (s.ports.get p).takesCommand = true) :
    Held (loopStart p s) := by
  unfold Machine.loopStart
  split_ifs with htrip hloop hstart
  iterate 3 exact h.answer hp _
  have hclosed : s.cycleIsOpen = false := by
    have hs := h.coherent.idle.mpr (not_not.mp hloop)
    simp [State.cycleIsOpen, hs]
  obtain ⟨hrequest, htripNone, happly⟩ := h.nothingWaits hclosed
  obtain ⟨-, hwork⟩ := h.coherent.of_not_open hclosed
  have hkeep := keepsControl_startedBlocks p s
  have hrecord : (startedBlocks p s).manager.openRecord = none := Option.map_eq_none_iff.mp hkeep.closing
  have hcleared : ((s.onLoop (fun c => { c with loop := .opened, request := none })).onManager
      Manager.clear).executionsHeld :=
    executionsHeld_congr h.loopHeld.executions (fun _ _ => Iff.rfl) fun d => by
      cases d <;> simp [State.owner, hrequest]
  have hstarted := executionsHeld_of_keepsControl hcleared hkeep
  have hanswered := executionsHeld_answer hstarted
    (fun c hc => not_executing_of_takesCommand hp c ((hkeep.executing p c).mp hc))
    { code := codeLoop, cls := .complete, reason := .none, data := loopData s.loop.loop .opened 0 }
  have harmed : Held (((startedBlocks p s).complete p codeLoop (loopData s.loop.loop .opened 0)).onManager
      (fun m => { m with state := .armed })) := by
    refine NothingWaits.held ⟨?_, ?_, ?_⟩ (coherent_armed rfl ?_ ?_ ?_) ?_
    · simp [hkeep.loop]
    · simpa [hkeep.loop] using htripNone
    · simpa [hkeep.pendingApply] using happly
    · simp [hkeep.loop]
    · simpa using hrecord
    · simpa [hkeep.working] using hwork
    · exact executionsHeld_onManager hanswered _
  have hperiod := harmed.of_keepsControl (calm_startPeriod _).control
  obtain ⟨hstate, -⟩ := startPeriod_states (((startedBlocks p s).complete p codeLoop
    (loopData s.loop.loop .opened 0)).onManager (fun m => { m with state := .armed }))
  rw [takeStart_eq]
  refine enterArmed_closed openingClosed_held ?_
  rw [onManager_of_armed hstate]
  exact hperiod

/-! ## The boundary -/

/-- Taking the pending APPLY ends it at its port. -/
theorem LoopHeld.takePendingApply {s : State} (h : LoopHeld s) : LoopHeld (takePendingApply s) ∧
    (takePendingApply s).stores.pendingApply = none := by
  obtain ⟨hone, hexec⟩ := h
  unfold Machine.takePendingApply
  split
  · next hnone => exact ⟨⟨hone, hexec⟩, hnone⟩
  · next a ha =>
    refine ⟨⟨hone, ?_⟩, rfl⟩
    refine executionsHeld_release (c := .apply) (p := a.port) hexec (by simp [State.owner, ha])
      (answer_activity_self _ _ _) (fun _ hq => answer_activity_other _ _ hq) rfl fun d hd => ?_
    cases d with
    | apply => exact absurd rfl hd
    | load => rfl
    | loop => rfl

/-- Taking the pending trip or request leaves neither, and ends a request at its port. -/
theorem LoopHeld.takePendingLoop {s : State} (h : LoopHeld s) : (takePendingLoop s).executionsHeld ∧
    (takePendingLoop s).loop.request = none ∧ (takePendingLoop s).loop.trip = none := by
  obtain ⟨hone, hexec⟩ := h
  unfold Machine.takePendingLoop
  split
  · next t ht =>
    have hrequest := hone.resolve_right (by rw [ht]; nofun)
    unfold takeTrip
    split
    · refine ⟨?_, by simpa using hrequest, by simp⟩
      refine executionsHeld_congr hexec (calm_post _ _).control.executing fun d => ?_
      cases d <;> simp [State.owner]
    · refine ⟨executionsHeld_congr hexec (fun _ _ => Iff.rfl) fun d => ?_, by simpa using hrequest, by simp⟩
      cases d <;> simp [State.owner]
  · next ht =>
    split
    · next r hr =>
      refine ⟨?_, by simp [takeRequest], by simpa [takeRequest] using ht⟩
      refine executionsHeld_release (c := .loop) (p := r.port) hexec (by simp [State.owner, hr])
        (answer_activity_self _ _ _) (fun q hq => ?_) (by simp [State.owner, takeRequest]) fun d hd => ?_
      · rw [takeRequest, State.complete, answer_activity_other _ _ hq, post_activity]
        rfl
      · cases d with
        | loop => exact absurd rfl hd
        | apply => simp [State.owner, takeRequest]
        | load => simp [State.owner, takeRequest]
    · next hr => exact ⟨hexec, hr, ht⟩

/-- From CLOSING, with the record and the working set gone, the boundary takes all that waits (R20). -/
theorem held_boundary {s : State} (h : LoopHeld s) (hs : s.manager.state = .closing)
    (hr : s.manager.openRecord = none) (hw : s.command.working.isSome = false) : Held (boundary s) := by
  have hcoherent := coherent_boundary hs hr hw
  obtain ⟨happlied, happly⟩ := h.takePendingApply
  obtain ⟨hexec, hrequest, htrip⟩ := happlied.takePendingLoop
  obtain ⟨hmanager, hcommand, -, -⟩ := takePendingApply_keepsOthers s
  obtain ⟨hmanager', -, hstores, -⟩ := takePendingLoop_keepsOthers (takePendingApply s)
  have hwork := takePendingLoop_working (takePendingApply s)
  have hkeep := keepsControl_takeHeldSettings (s := takePendingLoop (takePendingApply s))
    (by rw [hmanager', hmanager, hs]; simp)
  have hwaits : NothingWaits (takeHeldSettings (takePendingLoop (takePendingApply s))) :=
    ⟨by rw [hkeep.loop, hrequest], by rw [hkeep.loop, htrip], by rw [hkeep.pendingApply, hstores, happly]⟩
  have hexec' := executionsHeld_of_keepsControl hexec hkeep
  unfold boundary leaveBoundary at hcoherent ⊢
  split at hcoherent
  · next hl =>
    rw [if_pos hl]
    obtain ⟨hrequest', htrip', happly'⟩ := hwaits
    have hwaits' : NothingWaits (stopCycles (takeHeldSettings (takePendingLoop (takePendingApply s)))) := by
      constructor <;> simpa [stopCycles, flushReceivers]
    exact hwaits'.held hcoherent (executionsHeld_stopCycles hexec')
  · next hl =>
    rw [if_neg hl]
    obtain ⟨hrequest', htrip', happly'⟩ := hwaits
    have hrecord : (takeHeldSettings (takePendingLoop (takePendingApply s))).manager.openRecord = none := by
      have hclosing := hkeep.closing
      rw [hmanager', hmanager, hr] at hclosing
      exact Option.map_eq_none_iff.mp hclosing
    have hworking : (takeHeldSettings (takePendingLoop (takePendingApply s))).command.working.isSome = false := by
      rw [hkeep.working, hwork, hcommand, hw]
    refine enterArmed_closed openingClosed_held (NothingWaits.held ⟨hrequest', htrip', happly'⟩
      (coherent_armed rfl hl hrecord hworking) ?_)
    exact executionsHeld_onManager hexec' _

theorem Held.closeComputationEnd {s : State} (h : Held s) : Held (closeComputationEnd s) := by
  have hcycle := (cycleCoherent_iff s).mp h.coherent.cycle
  unfold Machine.closeComputationEnd
  split
  · next w o hw ho =>
    split
    · next info hinfo =>
      have hs : s.manager.state = .closing := by
        rw [ho, hw] at hcycle
        cases hst : s.manager.state <;> simp_all [phaseHas]
      obtain ⟨hstate, hrecord, hworking, hloop, hstores, hports⟩ := handResults_control w o.opened info s
      obtain ⟨hone, hexec⟩ := h.loopHeld
      refine held_boundary ⟨?_, ?_⟩ (hstate.trans hs) hrecord hworking
      · rw [State.oneLoopChange, hloop]
        exact hone
      · refine executionsHeld_congr hexec (fun p c => by rw [hports]) fun d => ?_
        cases d <;> simp only [State.owner, hloop, hstores]
    · exact h
  · exact h

/-! ## The resets -/

/-- The other port of a RESET PART executes nothing after it: what it executed was withdrawn (R183). -/
theorem resetOtherPort_activity (q : PortId) (s : State) (c : ExecutingCommand) :
    ((resetOtherPort q s).ports.get q).activity ≠ .executing c := by
  unfold resetOtherPort
  split
  · next ha => simp [ha]
  · simp [State.onPort, Port.discardRecord]
  · exact answer_activity_self _ _ _ c
  · next ha => simp [ha]

/-- A RESET PART leaves no port executing. -/
theorem resetPart_activity (p q : PortId) (s : State) (c : ExecutingCommand) :
    ((resetPart p s).ports.get q).activity ≠ .executing c := by
  unfold resetPart
  dsimp only
  by_cases hq : q = p
  · subst hq
    exact answer_activity_self _ _ _ c
  · obtain rfl := PortId.eq_other_of_ne hq
    rw [State.complete, answer_activity_other _ _ hq, post_activity]
    have hports : ∀ u, (softResetBlocks (softResetManager u)).ports = u.ports := by
      intro u
      simp [softResetBlocks, softResetManager]
    rw [hports, Pair.get_map]
    exact resetOtherPort_activity _ _ c

theorem Held.resetPart {s : State} (p : PortId) : Held (resetPart p s) :=
  NothingWaits.held ⟨rfl, rfl, rfl⟩ (Coherent.resetPart p)
    (executionsHeld_idle (fun q c => resetPart_activity p q s c) fun c => by cases c <;> rfl)

theorem held_powerOnReset (s : State) : Held (powerOnReset s) :=
  NothingWaits.held ⟨rfl, rfl, rfl⟩ (coherent_idle rfl rfl rfl rfl)
    (executionsHeld_idle (fun q c => by cases q <;> nofun) fun c => by cases c <;> rfl)

/-! ## Every step keeps pending work and executions matched -/

theorem eventClosed_held : EventClosed Held where
  toOpeningClosed := openingClosed_held
  requestTrip c _ h := h.requestTrip c
  closeCycle c _ hs h := h.closeCycle c hs
  closeComputationEnd _ h := h.closeComputationEnd
  loopStart _ _ hp h := h.loopStart hp
  loopRequest t _ _ hp h := h.loopRequest t hp
  load _ x _ hp h := h.load x hp
  loadWordWrite _ h := h.loadWordWrite
  apply _ x _ hp h := h.apply x hp
  resetPart p _ _ _ := Held.resetPart p
  powerOnReset s _ := held_powerOnReset s

/-- Settles O59: the invariant with that of O58 is an event-closed property. -/
theorem stepKeepsExecutionsHeld : Obligations.StepKeepsExecutionsHeld := by
  intro s t hstep hidle hcycle hone hwaits hexec
  obtain ⟨-, ⟨hone', hexec'⟩, hwaits'⟩ := eventClosed_held.step hstep ⟨⟨hidle, hcycle⟩, ⟨hone, hexec⟩, hwaits⟩
  exact ⟨hone', hwaits', hexec'⟩

end Sys2Proof.Machine

/-!
SUPPORT. The queue of waiting commands, the resets and the reference clock.
-/
namespace Sys2Proof.Machine

/-! ## The queue through a step -/

theorem arrive_pending {p : PortId} {f : State → State} (h : ∀ s, (f s).pending = s.pending) (s : State) :
    (State.arrive p f s).pending = s.pending :=
  arrive_keeps (P := fun t => t.pending = s.pending) (fun _ => h s) rfl

/-- No effect of a command changes the queue: its KeepsQueue lemma says so for each operation. -/
theorem whenRunning_pending (c : Instr) (s : State) : (whenRunning c s).pending = s.pending := by
  cases c with
  | powerOnReset => rfl
  | resetEnd =>
    simp only [whenRunning, resetEnd]
    split <;> rfl
  | timebaseTick => rfl
  | timingLineChange => simp [whenRunning, invertRaw]
  | addressSent => rfl
  | boardReady => rfl
  | boardBusy => rfl
  | blockSent => rfl
  | gapEnd => rfl
  | unknownCommand p code => exact arrive_pending (fun u => (unknownCommand_keeps p code u).1) s
  | lineFilterExpiry => simp only [whenRunning]; split <;> simp
  | lineDelayExpiry => simp only [whenRunning]; split <;> simp
  | periodExpiry => simp only [whenRunning]; split <;> simp
  | fallbackExpiry => simp only [whenRunning]; split <;> simp
  | deadlineExpiry => simp only [whenRunning]; split <;> simp
  | linkStartSymbol | linkDataSymbol | linkEndSymbol | linkFillSymbol | linkInvalidSymbol | groupOperationEnd
  | closeComputationEnd | readyTimeout | boardAck | boardNak | ackTimeout | telemetryGo | telemetryHold
  | telemetrySymbolSent | portSelect | transactionByte | commandByte | resultByte | portDeselect
  | loadWordWrite => simp [whenRunning]
  | _ => exact arrive_pending (fun u => (runCommand_keeps _ _ u).1) s

theorem exec_pending {c : Instr} {s t : State} (h : exec c s = .next t) : t.pending = s.pending := by
  cases hr : s.resetActs with
  | false =>
    rw [exec_running c hr] at h
    cases h
    exact whenRunning_pending c s
  | true =>
    cases hc : actsInReset c with
    | false =>
      rw [exec_underReset c hr hc] at h
      cases h
      rfl
    | true =>
      simp only [actsInReset, Bool.or_eq_true, beq_iff_eq] at hc
      rcases hc with ((rfl | rfl) | rfl) | rfl
      · cases h
        rfl
      · cases h
        exact whenRunning_pending .resetEnd s
      · cases h
        rfl
      · rw [show exec .timingLineChange s = .next (followRaw (invertRaw s)) from
          congrArg Host.Outcome.next (if_pos hr)] at h
        cases h
        rfl

/-- Settles O2: every command has a next state, which leaves the rest of the queue. -/
theorem stepNeverStops : Obligations.StepNeverStops := by
  intro s
  cases hq : s.pending with
  | nil => exact ⟨s, step_of_empty hq, hq⟩
  | cons c rest =>
    obtain ⟨t, ht⟩ := exec_next c { s with pending := rest }
    exact ⟨t, (step_of_waiting hq).trans ht, exec_pending ht⟩

/-- Settles O60: the reset state, read off block by block. -/
theorem resetMeetsInvariants : Obligations.ResetMeetsInvariants := by
  have hcoherent : Coherent State.reset := coherent_idle rfl rfl rfl rfl
  have hheld : Held State.reset := NothingWaits.held ⟨rfl, rfl, rfl⟩ hcoherent
    (executionsHeld_idle (fun q c => by cases q <;> nofun) fun c => by cases c <;> rfl)
  refine ⟨⟨Nat.zero_le _, Nat.zero_le _⟩, Nat.zero_le _, fun l => ?_, fun l => ?_, rfl, hcoherent.idle, hcoherent.cycle,
    hheld.loopHeld.one, hheld.waits, hheld.loopHeld.executions⟩
  · rw [State.reset, Quad.get_fill]
    exact Nat.zero_le _
  · rw [State.reset, Quad.get_fill]
    exact ⟨Nat.zero_le _, by decide, nofun⟩

/-! ## The resets -/

/-- Settles O5: every block is the one of the state after reset. -/
theorem powerOnResetBlocks : Obligations.PowerOnResetBlocks := by
  intro s
  refine ⟨powerOnReset s, rfl, rfl, rfl, rfl, rfl, fun l => ?_, rfl, rfl, fun l => ?_, fun l a => ?_, fun _ => rfl, rfl,
    rfl, fun _ => ⟨rfl, rfl⟩, rfl, rfl, rfl, rfl, rfl, rfl, fun b => ?_, rfl, rfl, rfl, fun b => ?_, fun p => ?_, rfl, rfl⟩
  · exact Quad.get_fill _ l
  · exact Quad.get_fill _ l
  · simp [powerOnReset, State.reset, Engine.powerOn]
  · exact Octet.get_fill _ b
  · exact Octet.get_fill _ b
  · have hport : (powerOnReset s).ports.get p = Port.powerOn := by cases p <;> rfl
    rw [hport]
    exact ⟨rfl, rfl, rfl, rfl, rfl, by decide⟩

/-- Settles O6: the receivers under reset, made to send GO. -/
theorem resetEndSendsGo : Obligations.ResetEndSendsGo := by
  refine ⟨fun s => ?_, fun s hs => ?_⟩
  · refine ⟨powerOnReset s, resetEnd (powerOnReset s), rfl, fun l => ?_, rfl, fun l => ?_, fun l => ⟨?_, ?_⟩, rfl, rfl⟩
    · simp [powerOnReset, Receiver.underReset]
    · simp [resetEnd, powerOnReset, Receiver.underReset, Receiver.powerOn, ReceiverCounters.zero]
    · simp [resetEnd, powerOnReset, Receiver.underReset, Receiver.powerOn, Receiver.linkState]
    · simp [resetEnd, powerOnReset, State.reset, Slot.powerOn]
  · have hend : resetEnd s =
        { s with resetActs := false, receivers := s.receivers.map (fun r => { r with flow := .go }) } := if_pos hs
    refine ⟨resetEnd s, rfl, ?_, fun l => ?_, ?_⟩ <;> rw [hend]
    · simp
    · rw [← hs]

/-! ## The reference clock -/

theorem Timer.tick_none : Timer.tick none = none := rfl

theorem Timer.tick_some (r : Word) : Timer.tick (some r) = some (if r = 0 then 0 else r - 1) := rfl

/-- The timebase advances by 1, and from its largest value to 0 (R3). -/
theorem timebase_advance (x : Stamp) :
    (x ≠ 281474976710655 → (x + 1).toNat = x.toNat + 1) ∧ (x = 281474976710655 → x + 1 = 0) := by
  refine ⟨fun h => ?_, fun h => by rw [h]; rfl⟩
  have hlt : x.toNat ≠ 281474976710655 := fun hx => h (BitVec.eq_of_toNat_eq hx)
  have := x.isLt
  rw [BitVec.toNat_add, show (1 : Stamp).toNat = 1 from rfl]
  omega

/-- Settles O7: a tick changes the timebase and the running timers alone. -/
theorem timebaseTickAdvances : Obligations.TimebaseTickAdvances := by
  intro s
  have hadvance := timebase_advance s.manager.timebase
  have htimer : ∀ t : Timer, (t = none → Timer.tick t = none) ∧
      ∀ r, t = some r → Timer.tick t = some (if r = 0 then 0 else r - 1) :=
    fun t => ⟨fun h => by rw [h, Timer.tick_none], fun r h => by rw [h, Timer.tick_some]⟩
  refine ⟨tick s, rfl, hadvance.1, hadvance.2, (htimer _).1, (htimer _).2, (htimer _).1, (htimer _).2, (htimer _).1,
    (htimer _).2, (htimer _).1, (htimer _).2, (htimer _).1, (htimer _).2, fun w r h => ?_, fun w r h => ?_, fun w r h => ?_,
    ?_, rfl, rfl, rfl, rfl⟩
  iterate 3 exact congrArg LinkActivity.tick h
  rintro (h | ⟨w, h | h⟩) <;> exact (congrArg LinkActivity.tick h).trans h.symm

end Sys2Proof.Machine

/-!
SUPPORT. The timing line and the triggers: the levels, the edges that pass, the latch and the opening of a cycle.
-/
namespace Sys2Proof.Machine

/-! ## The levels of the timing line (R8) -/

/-- The state with the timing line quiet at a level. -/
def State.atLevel (s : State) (level : Bool) : State :=
  { s with line := { raw := level, filtered := level, measuring := none } }

theorem startMeasuring_of_level {s : State} (h : s.line.raw = s.line.filtered) :
    startMeasuring s = { s with line := { s.line with measuring := none } } := by
  rw [startMeasuring, if_pos h]

theorem startMeasuring_of_filter {s : State} (h : s.line.raw ≠ s.line.filtered)
    (hf : s.manager.settings.filter ≠ .off) :
    startMeasuring s =
      { s with line := { s.line with measuring := Timer.start s.manager.settings.filter.units } } := by
  rw [startMeasuring, if_neg h, if_neg hf]

theorem startMeasuring_of_off {s : State} (h : s.line.raw ≠ s.line.filtered) (hf : s.manager.settings.filter = .off) :
    startMeasuring s = filterTakes s := by
  rw [startMeasuring, if_neg h, if_pos hf]

/-- An edge that differs from the level before is judged on the new level. -/
theorem filterTakes_of_change {s : State} (h : s.line.raw ≠ s.line.filtered) :
    filterTakes s = filteredEdge s.line.raw (s.atLevel s.line.raw) := by
  rw [filterTakes]
  exact if_neg h

/-- Outside LINE mode and in IDLE no edge passes. -/
theorem filteredEdge_ignored {s : State} (level : Bool) (h : s.manager.settings.mode ≠ .line ∨ s.manager.state = .idle) :
    filteredEdge level s = s := by
  unfold filteredEdge
  refine if_neg ?_
  rcases h with h | h <;> simp [h]

theorem filterTakes_ignored {s : State} (h : s.manager.settings.mode ≠ .line ∨ s.manager.state = .idle) :
    filterTakes s = s.atLevel s.line.raw := by
  by_cases hl : s.line.raw = s.line.filtered
  · rw [filterTakes]
    exact (if_pos hl).trans rfl
  · rw [filterTakes_of_change hl]
    exact filteredEdge_ignored (s := s.atLevel s.line.raw) _ h

theorem exec_timingLineChange {s : State} (h : s.resetActs = false) :
    exec .timingLineChange s = .next (startMeasuring (invertRaw s)) :=
  exec_running _ h

theorem exec_lineFilterExpiry {s : State} (h : s.resetActs = false) (hm : s.line.measuring = some 0) :
    exec .lineFilterExpiry s = .next (filterTakes s) :=
  (exec_running _ h).trans (congrArg Host.Outcome.next (if_pos (by rw [hm]; rfl)))

/-- Settles O8: a change of the raw level starts, stops or skips the measurement, and its expiry takes the level. -/
theorem timingLineLevels : Obligations.TimingLineLevels := by
  intro s hr hquiet
  refine ⟨fun hl hf => ?_, fun hl f hmem hf => ?_, fun hl => ?_, fun hm => ?_⟩
  · have hchange : (invertRaw s).line.raw ≠ (invertRaw s).line.filtered := by simp [invertRaw, hl]
    rw [exec_timingLineChange hr, startMeasuring_of_off hchange hf, filterTakes_ignored (s := invertRaw s) hquiet]
    rfl
  · have hchange : (invertRaw s).line.raw ≠ (invertRaw s).line.filtered := by simp [invertRaw, hl]
    have hunits : s.manager.settings.filter ≠ .off ∧ s.manager.settings.filter.units = f.2 := by
      rw [hf]
      simp only [List.mem_cons, List.not_mem_nil, or_false] at hmem
      rcases hmem with rfl | rfl | rfl | rfl <;> exact ⟨nofun, rfl⟩
    rw [exec_timingLineChange hr, startMeasuring_of_filter hchange hunits.1, ← hunits.2]
    rfl
  · have hback : (invertRaw s).line.raw = (invertRaw s).line.filtered := by
      simp only [invertRaw]
      cases h1 : s.line.raw <;> cases h2 : s.line.filtered <;> simp_all
    rw [exec_timingLineChange hr, startMeasuring_of_level hback]
    rfl
  · rw [exec_lineFilterExpiry hr hm, filterTakes_ignored hquiet]
    rfl

/-! ## Edges that pass (R9) -/

/-- The two ways in which the filtered level changes to `level`: at once, or when the measurement ends. -/
def EdgeComes (s : State) (c : Instr) (level : Bool) : Prop :=
  (c = .timingLineChange ∧ s.manager.settings.filter = .off ∧ s.line.raw = !level) ∨
    (c = .lineFilterExpiry ∧ s.line.measuring = some 0 ∧ s.line.raw = level)

theorem exec_of_edgeComes {s : State} {c : Instr} {level : Bool} (hr : s.resetActs = false)
    (hf : s.line.filtered = !level) (h : EdgeComes s c level) :
    exec c s = .next (filteredEdge level (s.atLevel level)) := by
  rcases h with ⟨rfl, hoff, hraw⟩ | ⟨rfl, hm, hraw⟩
  · have hnew : (invertRaw s).line.raw = level := by simp [invertRaw, hraw]
    have hchange : (invertRaw s).line.raw ≠ (invertRaw s).line.filtered := by
      rw [hnew]
      simp [invertRaw, hf]
    rw [exec_timingLineChange hr, startMeasuring_of_off hchange hoff, filterTakes_of_change hchange, hnew]
    rfl
  · rw [exec_lineFilterExpiry hr hm, filterTakes_of_change (by rw [hraw, hf]; simp), hraw]

theorem selects_eq_true {e : LineEdge} {level : Bool} (h : e = .rising ↔ level = true) : e.selects level = true := by
  cases e <;> cases level <;> simp_all [LineEdge.selects]

theorem selects_eq_false {e : LineEdge} {level : Bool} (h : e = .falling ↔ level = true) : e.selects level = false := by
  cases e <;> cases level <;> simp_all [LineEdge.selects]

theorem filteredEdge_selected {s : State} {level : Bool} (he : s.manager.settings.edge.selects level = true)
    (hm : s.manager.settings.mode = .line) (hs : s.manager.state ≠ .idle) : filteredEdge level s = passEdge s := by
  unfold filteredEdge
  exact if_pos (by simp [he, hm, hs])

theorem filteredEdge_unselected {s : State} {level : Bool} (he : s.manager.settings.edge.selects level = false) :
    filteredEdge level s = s := by
  unfold filteredEdge
  exact if_neg (by simp [he])

theorem passEdge_overlaps {s : State} {r : Word} (h : s.manager.lineDelay = some r) : passEdge s =
    s.onManagerCounters (fun c => { c with lineOverlaps := Counter.increase c.lineOverlaps }) := by
  rw [passEdge, h]

theorem passEdge_delayed {s : State} (h : s.manager.lineDelay = none) (hd : s.manager.settings.delay ≠ 0) :
    passEdge s = s.onManager (fun m => { m with lineDelay := Timer.start m.settings.delay }) := by
  rw [passEdge, h]
  exact if_neg hd

theorem passEdge_triggers {s : State} (h : s.manager.lineDelay = none) (hd : s.manager.settings.delay = 0) :
    passEdge s = produceTrigger .line s := by
  rw [passEdge, h]
  exact if_pos hd

/-! ## Triggers (R10, R11) -/

theorem produceTrigger_armed {s : State} (c : LatchedCause) (h : s.manager.state = .armed) :
    produceTrigger c s = openCycle c.openCause false s := by
  rw [produceTrigger, h]

theorem produceTrigger_open {s : State} (c : LatchedCause) (h : s.cycleIsOpen = true) :
    produceTrigger c s = latchTrigger c s := by
  rcases (cycleIsOpen_iff s).mp h with h | h <;> rw [produceTrigger, h]

theorem latchTrigger_latches {s : State} (c : LatchedCause) (hq : s.manager.settings.queue = true)
    (hl : s.manager.latch = none) : latchTrigger c s = s.onManager (fun m => { m with latch := some c }) := by
  unfold latchTrigger
  exact if_pos (by simp [hq, hl])

theorem latchTrigger_drops {s : State} (c : LatchedCause)
    (h : s.manager.settings.queue = false ∨ s.manager.latch ≠ none) : latchTrigger c s =
      s.onManagerCounters (fun c => { c with droppedTriggers := Counter.increase c.droppedTriggers }) := by
  unfold latchTrigger
  refine if_neg ?_
  rcases h with h | h <;> simp [h]

/-- Settles O9: the passed edge, with the delay running, not running or 0. -/
theorem passedEdgeStartsDelay : Obligations.PassedEdgeStartsDelay := by
  intro s c level hr hm hs hf hcomes
  rw [exec_of_edgeComes hr hf hcomes]
  refine ⟨fun hedge => ?_, fun hedge => ?_⟩
  · rw [filteredEdge_selected (s := s.atLevel level) (selects_eq_true hedge) hm hs]
    refine ⟨fun hnone hdelay => ?_, fun hnone hdelay hopen => ?_, fun r hrun => ?_⟩
    · rw [passEdge_delayed (s := s.atLevel level) hnone hdelay]
      rfl
    · rw [passEdge_triggers (s := s.atLevel level) hnone hdelay, produceTrigger_open (s := s.atLevel level) _ hopen]
      refine ⟨fun hq hl => ?_, fun hdrop => ?_⟩
      · rw [latchTrigger_latches (s := s.atLevel level) _ hq hl]
        rfl
      · rw [latchTrigger_drops (s := s.atLevel level) _ hdrop]
        rfl
    · rw [passEdge_overlaps (s := s.atLevel level) hrun]
      rfl
  · rw [filteredEdge_unselected (s := s.atLevel level) (selects_eq_false hedge)]
    rfl

theorem exec_lineDelayExpiry {s : State} (h : s.resetActs = false) (hd : s.manager.lineDelay = some 0) :
    exec .lineDelayExpiry s =
      .next (produceTrigger .line (s.onManager (fun m => { m with lineDelay := none }))) :=
  (exec_running _ h).trans (congrArg Host.Outcome.next (if_pos (by rw [hd]; rfl)))

theorem exec_periodExpiry {s : State} (h : s.resetActs = false) (hd : s.manager.period = some 0) :
    exec .periodExpiry s =
      .next (produceTrigger .timer (s.onManager (fun m => { m with period := Timer.start m.settings.period }))) :=
  (exec_running _ h).trans (congrArg Host.Outcome.next (if_pos (by rw [hd]; rfl)))

/-- Settles O10: with a cycle open a trigger is latched or dropped and counted. -/
theorem triggerWhileCycleOpen : Obligations.TriggerWhileCycleOpen := by
  intro s hr hopen
  refine ⟨fun hd => ?_, fun hd => ?_⟩
  · rw [exec_lineDelayExpiry hr hd,
      produceTrigger_open (s := s.onManager (fun m => { m with lineDelay := none })) _ hopen]
    refine ⟨fun hq hl => ?_, fun hdrop => ?_⟩
    · rw [latchTrigger_latches (s := s.onManager (fun m => { m with lineDelay := none })) _ hq hl]
      rfl
    · rw [latchTrigger_drops (s := s.onManager (fun m => { m with lineDelay := none })) _ hdrop]
      rfl
  · rw [exec_periodExpiry hr hd,
      produceTrigger_open (s := s.onManager (fun m => { m with period := Timer.start m.settings.period })) _ hopen]
    refine ⟨fun hq hl => ?_, fun hdrop => ?_⟩
    · rw [latchTrigger_latches (s := s.onManager (fun m => { m with period := Timer.start m.settings.period })) _ hq hl]
      rfl
    · rw [latchTrigger_drops (s := s.onManager (fun m => { m with period := Timer.start m.settings.period })) _ hdrop]
      rfl

end Sys2Proof.Machine

/-!
SUPPORT. The masters' commands that answer at once: unknown codes and the SET commands, refused, held and in force.
-/
namespace Sys2Proof.Machine

/-! ## A command at a port that takes it -/

/-- A row of a master's command at a port that takes it is the command itself. -/
theorem exec_ready {c : Instr} {p : PortId} {f : State → State} {s : State} (h : s.portReady p)
    (hc : whenRunning c = State.arrive p f) : exec c s = .next (f s) := by
  rw [exec_running c h.1, hc]
  exact congrArg Host.Outcome.next (if_pos h.2)

/-- Settles O43: a code outside the sixteen of the table is refused. -/
theorem unknownCommandRefused : Obligations.UnknownCommandRefused := by
  intro s p code h hcode
  have hunknown : unknownCommand p code s = s.reject p code .unknownCommand := by
    unfold unknownCommand
    exact if_neg (by simpa [commandCodes] using hcode)
  rw [exec_ready h rfl, hunknown]
  rfl

/-! ## The bytes of the settings -/

theorem readMode_out {b : Byte} (h : 2 < b.toNat) : readMode b = none := by
  revert b
  decide

theorem readLink_out {b : Byte} (h : 3 < b.toNat) : readLink b = none := by
  revert b
  decide

theorem readEdge_out {b : Byte} (h : 1 < b.toNat) : readEdge b = none := by
  revert b
  decide

theorem readFilter_out {b : Byte} (h : 4 < b.toNat) : readFilter b = none := by
  revert b
  decide

theorem readFlag_out {b : Byte} (h : 1 < b.toNat) : readFlag b = none := by
  revert b
  decide

theorem readLate_out {b : Byte} (h : 1 < b.toNat) : readLate b = none := by
  revert b
  decide

theorem readOutOfCycle_out {b : Byte} (h : 1 < b.toNat) : readOutOfCycle b = none := by
  revert b
  decide

theorem readLoss_out {b : Byte} (h : 1 < b.toNat) : readLoss b = none := by
  revert b
  decide

@[simp] theorem readMode_code (m : TriggerMode) : readMode m.code = some m := by cases m <;> rfl

@[simp] theorem readLink_val (l : LinkId) : readLink (BitVec.ofNat 8 l.val) = some l := by revert l; decide

@[simp] theorem readEdge_code (e : LineEdge) : readEdge e.code = some e := by cases e <;> rfl

@[simp] theorem readFilter_code (f : LineFilter) : readFilter f.code = some f := by cases f <;> rfl

@[simp] theorem readFlag_flag (b : Bool) : readFlag (if b then 1 else 0) = some b := by cases b <;> rfl

@[simp] theorem readLate_code (x : LatePolicy) : readLate x.code = some x := by cases x <;> rfl

@[simp] theorem readOutOfCycle_code (x : OutOfCycle) : readOutOfCycle x.code = some x := by cases x <;> rfl

@[simp] theorem readLoss_code (x : LossAction) : readLoss x.code = some x := by cases x <;> rfl

theorem inRange_of_false {α : Type} {c : Bool} (x : α) (h : c = false) : inRange c x = none := by simp [inRange, h]

theorem inRange_of_true {α : Type} {c : Bool} (x : α) (h : c = true) : inRange c x = some x := by simp [inRange, h]

/-! ## The checks that refuse (R45, R50) -/

theorem checkTiming_refuses {x : TimingParams} (h : 2 < x.mode.toNat ∨ 3 < x.leadSlot.toNat ∨ 1 < x.edge.toNat ∨
    4 < x.filter.toNat ∨ x.period.toNat < 100 ∨ x.deadline = 0 ∨ 1 < x.queue.toNat ∨
    (0 < x.fallback.toNat ∧ x.fallback.toNat < 100)) : checkTiming x = none := by
  unfold checkTiming
  split
  · next hm hl he hf hq =>
    refine inRange_of_false _ ?_
    rcases h with h | h | h | h | h | h | h | h
    · simp [readMode_out h] at hm
    · simp [readLink_out h] at hl
    · simp [readEdge_out h] at he
    · simp [readFilter_out h] at hf
    · simp [show ¬ 100 ≤ x.period.toNat by omega]
    · simp [h]
    · simp [readFlag_out h] at hq
    · have hne : x.fallback ≠ 0 := by
        rintro h0
        simp [h0] at h
      have hsmall : ¬ 100 ≤ x.fallback.toNat := by omega
      simp only [beq_eq_false_iff_ne.mpr hne, decide_eq_false hsmall, Bool.or_self, Bool.and_false]
  · rfl

theorem checkSlot_refuses {x : SlotParams} (h : 3 < x.slot.toNat ∨ x.divisor = 0 ∨ 16 < x.divisor.toNat ∨
    x.divisor.toNat ≤ x.phase.toNat ∨ 1 < x.latePolicy.toNat ∨ 15 < x.holdLimit.toNat ∨ 1 < x.outOfCycle.toNat ∨
    1 < x.lossAction.toNat) : checkSlot x = none := by
  unfold checkSlot
  split
  · next hs hl ho ha =>
    refine inRange_of_false _ ?_
    rcases h with h | h | h | h | h | h | h | h
    · simp [readLink_out h] at hs
    · simp [h]
    · simp [show ¬ x.divisor.toNat ≤ 16 by omega]
    · simp [show ¬ x.phase.toNat < x.divisor.toNat by omega]
    · simp [readLate_out h] at hl
    · simp [show ¬ x.holdLimit.toNat ≤ 15 by omega]
    · simp [readOutOfCycle_out h] at ho
    · simp [readLoss_out h] at ha
  · rfl

theorem checkMirror_refuses {x : MirrorParams}
    (h : x.readyTimeout = 0 ∨ x.ackTimeout = 0 ∨ x.faultLimit = 0 ∨ 15 < x.faultLimit.toNat) :
    checkMirror x = none := by
  refine inRange_of_false _ ?_
  rcases h with h | h | h | h
  · simp [h]
  · simp [h]
  · simp [h]
  · simp [show ¬ x.faultLimit.toNat ≤ 15 by omega]

theorem checkProbe_refuses {m : Byte} (h : 4 < m.toNat) : checkProbe m = none := by
  have hm : m ≠ 0 := by
    rintro rfl
    simp at h
  rw [checkProbe, if_neg hm]
  exact inRange_of_false _ (by simp [show ¬ m.toNat ≤ 4 by omega])

theorem checkPattern_refuses {x : CaptureParams} (h : 3 < x.pattern.toNat ∨ (1 ≤ x.pattern.toNat ∧ x.first = 0) ∨
    (x.pattern = 2 ∧ x.second.toNat < x.first.toNat) ∨ (x.pattern = 3 ∧ 32 < x.first.toNat)) :
    checkPattern x = none := by
  unfold checkPattern
  split_ifs with h0 h1 h2 h3
  · simp [h0] at h
  · refine inRange_of_false _ ?_
    rcases h with h | h | h | h <;> simp_all
  · refine inRange_of_false _ ?_
    rcases h with h | h | h | h <;> simp_all
  · refine inRange_of_false _ ?_
    rcases h with h | h | h | h <;> simp_all
  · rfl

theorem checkCapture_refuses {x : CaptureParams} (h : checkPattern x = none) : checkCapture x = none := by
  simp [checkCapture, h]

theorem checkOffload_refuses {x : OffloadParams} (h : 4096 < x.window.toNat) : checkOffload x = none :=
  inRange_of_false _ (by simp [show ¬ x.window.toNat ≤ 4096 by omega])

/-! ## The checks that accept -/

/-- The parameters of SET TIMING for given settings. -/
def TimingSettings.parameters (x : TimingSettings) : TimingParams :=
  { mode := x.mode.code, leadSlot := BitVec.ofNat 8 x.leadSlot.val, edge := x.edge.code, filter := x.filter.code,
    delay := x.delay, period := x.period, deadline := x.deadline, queue := if x.queue then 1 else 0,
    fallback := x.fallback }

/-- The parameters of SET SLOT for a given policy. -/
def SlotPolicy.parameters (l : LinkId) (x : SlotPolicy) : SlotParams :=
  { slot := BitVec.ofNat 8 l.val, divisor := BitVec.ofNat 8 x.divisor, phase := BitVec.ofNat 8 x.phase,
    latePolicy := x.late.code, holdLimit := BitVec.ofNat 8 x.holdLimit, outOfCycle := x.outOfCycle.code,
    lossAction := x.lossAction.code }

/-- The parameters of SET MIRROR for given settings. -/
def MirrorSettings.parameters (x : MirrorSettings) : MirrorParams :=
  { readyTimeout := x.readyTimeout, ackTimeout := x.ackTimeout, gap := x.gap, faultLimit := BitVec.ofNat 8 x.faultLimit }

/-- The timing settings that SET TIMING accepts by their values. -/
def TimingSettings.InRange (x : TimingSettings) : Prop :=
  100 ≤ x.period.toNat ∧ 1 ≤ x.deadline.toNat ∧ (x.fallback = 0 ∨ 100 ≤ x.fallback.toNat)

theorem checkTiming_parameters {x : TimingSettings} (h : x.InRange) : checkTiming x.parameters = some x := by
  obtain ⟨hperiod, hdeadline, hfallback⟩ := h
  simp only [checkTiming, TimingSettings.parameters, readMode_code, readLink_val, readEdge_code, readFilter_code,
    readFlag_flag]
  refine inRange_of_true _ ?_
  rcases hfallback with h | h <;> simp [h, hperiod, hdeadline]

theorem checkTiming_parameters_cases (x : TimingSettings) :
    checkTiming x.parameters = some x ∨ checkTiming x.parameters = none := by
  simp only [checkTiming, TimingSettings.parameters, readMode_code, readLink_val, readEdge_code, readFilter_code,
    readFlag_flag]
  unfold inRange
  split
  · exact .inl rfl
  · exact .inr rfl

theorem toNat_ofNat_byte {n : Nat} (h : n ≤ 16) : (BitVec.ofNat 8 n).toNat = n := by
  simp only [BitVec.toNat_ofNat]
  omega

theorem checkSlot_parameters (l : LinkId) {x : SlotPolicy} (h1 : 1 ≤ x.divisor) (h2 : x.divisor ≤ 16)
    (h3 : x.phase < x.divisor) (h4 : x.holdLimit ≤ 15) : checkSlot (x.parameters l) = some (l, x) := by
  have hdivisor := toNat_ofNat_byte h2
  have hphase := toNat_ofNat_byte (show x.phase ≤ 16 by omega)
  have hhold := toNat_ofNat_byte (show x.holdLimit ≤ 16 by omega)
  simp only [checkSlot, SlotPolicy.parameters, readLink_val, readLate_code, readOutOfCycle_code, readLoss_code, hdivisor,
    hphase, hhold]
  exact inRange_of_true _ (by simp [h1, h2, h3, h4])

theorem checkMirror_parameters {x : MirrorSettings} (h1 : 1 ≤ x.readyTimeout.toNat) (h2 : 1 ≤ x.ackTimeout.toNat)
    (h3 : 1 ≤ x.faultLimit) (h4 : x.faultLimit ≤ 15) : checkMirror x.parameters = some x := by
  have hlimit := toNat_ofNat_byte (show x.faultLimit ≤ 16 by omega)
  simp only [checkMirror, MirrorSettings.parameters, hlimit]
  exact inRange_of_true _ (by simp [h1, h2, h3, h4])

/-- The mode that SET PROBE names. -/
def probeModeOf (m : Byte) : ProbeMode := if m = 0 then .off else .on m.toNat

theorem checkProbe_accepts {m : Byte} (h : m.toNat ≤ 4) : checkProbe m = some (probeModeOf m) := by
  unfold checkProbe probeModeOf
  split
  · rfl
  · exact inRange_of_true _ (by simp [h])

theorem probeModeOf_code (m : Byte) : (probeModeOf m).code = m := by
  unfold probeModeOf
  split
  · next h0 => rw [h0]; rfl
  · exact BitVec.eq_of_toNat_eq (by simp [ProbeMode.code])

/-- The patterns that SET CAPTURE accepts. -/
def NamesPattern (x : CaptureParams) (t : CapturePattern) : Prop :=
  (x.pattern = 0 ∧ t = .off) ∨ (x.pattern = 1 ∧ 1 ≤ x.first.toNat ∧ t = .every x.first.toNat) ∨
    (x.pattern = 2 ∧ 1 ≤ x.first.toNat ∧ x.first.toNat ≤ x.second.toNat ∧ t = .burst x.first.toNat x.second.toNat) ∨
    (x.pattern = 3 ∧ 1 ≤ x.first.toNat ∧ x.first.toNat ≤ 32 ∧ t = .mask x.first.toNat x.mask)

theorem checkPattern_accepts {x : CaptureParams} {t : CapturePattern} (h : NamesPattern x t) : checkPattern x = some t := by
  unfold checkPattern
  rcases h with ⟨hp, rfl⟩ | ⟨hp, h1, rfl⟩ | ⟨hp, h1, h2, rfl⟩ | ⟨hp, h1, h2, rfl⟩
  · simp [hp]
  · simp [hp, inRange, h1]
  · simp [hp, inRange, h1, h2]
  · simp [hp, inRange, h1, h2]

/-- The settings that the parameters of SET CAPTURE stand for, with their pattern. -/
def captureSettings (x : CaptureParams) (t : CapturePattern) : CaptureSettings :=
  { pattern := t, drive := x.content.getLsbD 0, residual := x.content.getLsbD 1 }

theorem checkCapture_accepts {x : CaptureParams} {t : CapturePattern} (h : NamesPattern x t) :
    checkCapture x = some (captureSettings x t) := by
  simp [checkCapture, checkPattern_accepts h, captureSettings]

/-- The settings that the parameters of SET OFFLOAD stand for. -/
def offloadSettings (x : OffloadParams) : OffloadSettings :=
  { window := x.window.toNat, mask := x.mask.extractLsb' 0 4 }

theorem checkOffload_accepts {x : OffloadParams} (h : x.window.toNat ≤ 4096) : checkOffload x = some (offloadSettings x) :=
  inRange_of_true _ (by simp [h])

theorem offloadSettings_bytes (x : OffloadParams) :
    (offloadSettings x).bytes = bytes16 x.window ++ [(x.mask.extractLsb' 0 4).setWidth 8] := by
  simp [offloadSettings, OffloadSettings.bytes, count16]

/-! ## The SET commands refuse (O45) -/

/-- SET TIMING outside IDLE refuses a lead slot that is not enabled. -/
theorem setTiming_leadDisabled {p : PortId} {s : State} {x : TimingSettings} (hm : x.mode = .lead)
    (hl : s.loop.loop ≠ .idle) (he : (s.slots.get x.leadSlot).enabled = false) :
    setTiming p x.parameters s = s.reject p codeSetTiming .badParameter := by
  unfold setTiming
  rcases checkTiming_parameters_cases x with h | h
  · rw [h]
    exact if_pos ⟨hm, hl, he⟩
  · rw [h]

/-- Settles O45: each check refuses, and the lead slot is refused by the second check of SET TIMING. -/
theorem setsRefusedOutOfRange : Obligations.SetsRefusedOutOfRange := by
  intro s p h
  refine ⟨fun x hx => ?_, fun x hm hl he => ?_, fun x hx => ?_, fun x hx => ?_, fun m hm => ?_, fun x hx => ?_,
    fun x hx => ?_⟩
  · rw [exec_ready h rfl]
    simp only [runCommand, setTiming, checkTiming_refuses hx]
    rfl
  · rw [exec_ready h rfl]
    exact congrArg Host.Outcome.next (setTiming_leadDisabled hm hl he)
  · rw [exec_ready h rfl]
    simp only [runCommand, setSlot, checkSlot_refuses hx]
    rfl
  · rw [exec_ready h rfl]
    simp only [runCommand, setMirror, checkMirror_refuses hx]
    rfl
  · rw [exec_ready h rfl]
    simp only [runCommand, setProbe, checkProbe_refuses hm]
    rfl
  · rw [exec_ready h rfl]
    simp only [runCommand, setCapture, checkCapture_refuses (checkPattern_refuses hx)]
    rfl
  · rw [exec_ready h rfl]
    simp only [runCommand, setOffload, checkOffload_refuses hx]
    rfl

/-! ## The SET commands hold their settings while a cycle is open (O46) -/

theorem setTiming_held {p : PortId} {s : State} {x : TimingSettings} (hx : x.InRange) (ho : s.cycleIsOpen = true)
    (hl : x.mode = .lead → s.loop.loop ≠ .idle → (s.slots.get x.leadSlot).enabled = true) :
    setTiming p x.parameters s =
      (s.onManager (fun m => { m with held := some x })).complete p codeSetTiming (x.bytes ++ [1]) := by
  unfold setTiming
  rw [checkTiming_parameters hx]
  have haccepted : ¬ (x.mode = .lead ∧ s.loop.loop ≠ .idle ∧ (s.slots.get x.leadSlot).enabled = false) := by
    rintro ⟨h1, h2, h3⟩
    simp [hl h1 h2] at h3
  exact (if_neg haccepted).trans (if_pos ho)

theorem setTiming_inForce {p : PortId} {s : State} {x : TimingSettings} (hx : x.InRange) (ho : s.cycleIsOpen = false)
    (hl : x.mode = .lead → s.loop.loop ≠ .idle → (s.slots.get x.leadSlot).enabled = true) :
    setTiming p x.parameters s = (applyTiming x s).complete p codeSetTiming (x.bytes ++ [0]) := by
  unfold setTiming
  rw [checkTiming_parameters hx]
  have haccepted : ¬ (x.mode = .lead ∧ s.loop.loop ≠ .idle ∧ (s.slots.get x.leadSlot).enabled = false) := by
    rintro ⟨h1, h2, h3⟩
    simp [hl h1 h2] at h3
  exact (if_neg haccepted).trans (if_neg (by simp [ho]))

/-- Settles O46: the codes and the layouts of the settings, and the settings held. -/
theorem setsHeldWhileCycleOpen : Obligations.SetsHeldWhileCycleOpen := by
  refine ⟨rfl, rfl, rfl, rfl, rfl, rfl, rfl, fun _ => rfl, fun _ => rfl, fun _ => rfl, fun _ => rfl,
    CaptureSettings.bytes_eq, fun _ => rfl, cycleIsOpen_iff, ?_⟩
  intro s p h ho
  refine ⟨fun x h1 h2 h3 hl => ?_, fun l x h1 h2 h3 h4 => ?_, fun x h1 h2 h3 h4 => ?_, fun m hm => ?_,
    fun x t hx => ?_, fun x hx => ?_⟩
  · rw [exec_ready h rfl]
    exact congrArg Host.Outcome.next (setTiming_held ⟨h1, h2, h3⟩ ho hl)
  · have hset : setSlot p (x.parameters l) s = (s.onSlot l (fun y => { y with heldPolicy := some x })).complete p
        codeSetSlot ([BitVec.ofNat 8 l.val] ++ x.bytes ++ [1]) := by
      simp only [setSlot, checkSlot_parameters l h1 h2 h3 h4, ho, if_true]
      rfl
    rw [exec_ready h rfl]
    exact congrArg Host.Outcome.next hset
  · have hset : setMirror p x.parameters s =
        (s.onMirror (fun m => { m with held := some x })).complete p codeSetMirror (x.bytes ++ [1]) := by
      simp only [setMirror, checkMirror_parameters h1 h2 h3 h4, ho, if_true]
    rw [exec_ready h rfl]
    exact congrArg Host.Outcome.next hset
  · rw [exec_ready h rfl]
    simp only [runCommand, setProbe, checkProbe_accepts hm, probeModeOf_code m, ho, if_true]
    rfl
  · rw [exec_ready h rfl]
    simp only [runCommand, setCapture, checkCapture_accepts hx, ho, if_true]
    rfl
  · rw [exec_ready h rfl]
    simp only [runCommand, setOffload, checkOffload_accepts hx, offloadSettings_bytes, ho, if_true]
    rfl

end Sys2Proof.Machine

/-!
SUPPORT. The SET commands with no cycle open: the timing settings that come into force, and the geometry.
-/
namespace Sys2Proof.Machine

/-! ## The timing settings come into force (R51) -/

theorem onManager_eq_self {s : State} {f : Manager → Manager} (h : f s.manager = s.manager) : s.onManager f = s := by
  cases s
  simp_all [State.onManager]

/-- The manager with new timing settings, before the change of mode acts. -/
def Manager.withTiming (x : TimingSettings) (m : Manager) : Manager := { m with settings := x, held := none }

theorem applyTiming_eq (x : TimingSettings) (s : State) : applyTiming x s =
    leadInForce (changeFilter s.manager.settings (changeMode s.manager.settings.mode
      (s.onManager (Manager.withTiming x)))) := rfl

theorem changeFilter_quiet {old : TimingSettings} {s : State} (h : s.line.measuring = none ∨
    (s.manager.settings.filter = old.filter ∧ s.manager.settings.edge = old.edge)) : changeFilter old s = s := by
  unfold changeFilter
  refine if_neg ?_
  rcases h with h | ⟨h1, h2⟩
  · simp [h]
  · simp [h1, h2]

theorem leadInForce_unarmed {s : State} (h : s.manager.settings.mode ≠ .lead ∨ s.manager.state ≠ .armed) :
    leadInForce s = s := by
  unfold leadInForce
  refine if_neg ?_
  rcases h with h | h <;> simp [h]

/-- In IDLE, with every timer stopped and no trigger latched, a change of mode acts on nothing. -/
theorem changeMode_idle (old : TriggerMode) {s : State} (hs : s.manager.state = .idle) (hlatch : s.manager.latch = none)
    (hd : s.manager.lineDelay = none) (hp : s.manager.period = none) (hf : s.manager.fallback = none) :
    changeMode old s = s := by
  have hstop : stopModeTimer old s = s := by
    cases old
    · exact onManager_eq_self (s := s) (f := fun m => { m with fallback := none }) (by simp only [← hf])
    · exact onManager_eq_self (s := s) (f := fun m => { m with lineDelay := none }) (by simp only [← hd])
    · exact onManager_eq_self (s := s) (f := fun m => { m with period := none }) (by simp only [← hp])
  have hdrop : dropLatch s = s := by
    unfold dropLatch
    rw [hlatch]
    exact onManager_eq_self (by simp [Counter.increaseIf, ← hlatch])
  have hperiod : startPeriod s = s := if_neg (by simp [hs])
  unfold changeMode
  rw [hstop, hdrop, hperiod]
  exact ite_self s

theorem applyTiming_idle {s : State} (x : TimingSettings) (hs : s.manager.state = .idle)
    (hlatch : s.manager.latch = none) (hd : s.manager.lineDelay = none) (hp : s.manager.period = none)
    (hf : s.manager.fallback = none) (hm : s.line.measuring = none) :
    applyTiming x s = s.onManager (Manager.withTiming x) := by
  rw [applyTiming_eq, changeMode_idle (s := s.onManager (Manager.withTiming x)) _ hs hlatch hd hp hf,
    changeFilter_quiet (s := s.onManager (Manager.withTiming x)) (.inl hm),
    leadInForce_unarmed (s := s.onManager (Manager.withTiming x)) (.inr (by simp [Manager.withTiming, hs]))]

/-- The manager after the change of mode in ARMED (R51). -/
def Manager.inMode (x : TimingSettings) (m : Manager) : Manager :=
  { m with
    settings := x
    held := none
    latch := if x.mode = m.settings.mode then m.latch else none
    lineDelay := if x.mode ≠ m.settings.mode ∧ m.settings.mode = .line then none else m.lineDelay
    period :=
      if x.mode = m.settings.mode then m.period
      else if x.mode = .timer then some x.period
      else if m.settings.mode = .timer then none
      else m.period
    fallback := if x.mode ≠ m.settings.mode ∧ m.settings.mode = .lead then none else m.fallback
    counters := { m.counters with
      droppedTriggers :=
        if x.mode ≠ m.settings.mode ∧ m.latch ≠ none then Counter.increase m.counters.droppedTriggers
        else m.counters.droppedTriggers } }

theorem dropLatch_eq (s : State) : dropLatch s = s.onManager (fun m => { m with
    latch := none
    counters := { m.counters with
      droppedTriggers :=
        if m.latch = none then m.counters.droppedTriggers else Counter.increase m.counters.droppedTriggers } }) := by
  unfold dropLatch
  cases h : s.manager.latch <;> simp [State.onManager, State.onManagerCounters, Counter.increaseIf, h]

theorem changeMode_armed {s : State} (x : TimingSettings) (hs : s.manager.state ≠ .idle) :
    changeMode s.manager.settings.mode (s.onManager (Manager.withTiming x)) = s.onManager (Manager.inMode x) := by
  unfold changeMode
  by_cases hmode : x.mode = s.manager.settings.mode
  · refine (if_pos hmode).trans ?_
    simp [State.onManager, Manager.withTiming, Manager.inMode, hmode]
  · refine (if_neg hmode).trans ?_
    rw [dropLatch_eq]
    by_cases htimer : x.mode = .timer
    · rw [htimer] at hmode
      cases hold : s.manager.settings.mode <;>
        simp_all [startPeriod, State.onManager, Manager.withTiming, Manager.inMode, stopModeTimer, Timer.start,
          ite_not] <;>
        exact if_congr Iff.rfl rfl rfl
    · cases hold : s.manager.settings.mode <;>
        simp_all [startPeriod, State.onManager, Manager.withTiming, Manager.inMode, stopModeTimer, ite_not] <;>
        exact if_congr Iff.rfl rfl rfl

theorem applyTiming_armed {s : State} (x : TimingSettings) (hs : s.manager.state = .armed)
    (hq : s.line.measuring = none ∨ (x.filter = s.manager.settings.filter ∧ x.edge = s.manager.settings.edge)) :
    applyTiming x s = leadInForce (s.onManager (Manager.inMode x)) := by
  rw [applyTiming_eq, changeMode_armed x (by simp [hs]), changeFilter_quiet (s := s.onManager (Manager.inMode x)) hq]

theorem leadCondition_eq_true {s : State} : leadCondition s = true ↔ s.manager.settings.mode = .lead ∧
    s.manager.state = .armed ∧ (s.slots.get s.manager.settings.leadSlot).muted = false ∧
    (s.receivers.get s.manager.settings.leadSlot).fifo ≠ [] := by
  simp [leadCondition, and_assoc]

theorem leadCondition_eq_false {s : State} : leadCondition s = false ↔ s.manager.settings.mode ≠ .lead ∨
    s.manager.state ≠ .armed ∨ (s.slots.get s.manager.settings.leadSlot).muted = true ∨
    (s.receivers.get s.manager.settings.leadSlot).fifo = [] := by
  rw [← Bool.not_eq_true, leadCondition_eq_true]
  simp only [not_and_or, ne_eq, not_not, Bool.not_eq_false]

theorem startFallback_eq (s : State) : startFallback s = s.onManager (fun m => { m with
    fallback := if m.settings.fallback = 0 then m.fallback else some m.settings.fallback }) := by
  unfold startFallback
  split
  · next h => exact (onManager_eq_self (by simp [h])).symm
  · next h => simp only [State.onManager, if_neg h, Timer.start]

/-- The manager when the settings are in force and the lead condition is unmet. -/
def Manager.inForce (x : TimingSettings) (m : Manager) : Manager :=
  { m.inMode x with
    fallback :=
      if x.mode = .lead then (if m.fallback = none ∧ x.fallback ≠ 0 then some x.fallback else m.fallback)
      else if m.settings.mode = .lead then none
      else m.fallback }

/-- What the settings in force start when the mode is LEAD and the state ARMED. -/
theorem leadInForce_lead {s : State} (x : TimingSettings) (hs : s.manager.state = .armed) (hx : x.mode = .lead) :
    leadInForce (s.onManager (Manager.inMode x)) = evalLead (s.onManager (Manager.inForce x)) := by
  unfold leadInForce
  rw [if_pos (by simp [Manager.inMode, hx, hs])]
  congr 1
  rw [startFallback_eq]
  by_cases hf : s.manager.fallback = none <;> by_cases h0 : x.fallback = 0 <;>
    simp [State.onManager, Manager.inMode, Manager.inForce, hx, hf, h0] <;> grind

theorem applyTiming_unmet {s : State} (x : TimingSettings) (hs : s.manager.state = .armed)
    (hq : s.line.measuring = none ∨ (x.filter = s.manager.settings.filter ∧ x.edge = s.manager.settings.edge))
    (hl : x.mode ≠ .lead ∨ (s.slots.get x.leadSlot).muted = true ∨ (s.receivers.get x.leadSlot).fifo = []) :
    applyTiming x s = s.onManager (Manager.inForce x) := by
  rw [applyTiming_armed x hs hq]
  by_cases hx : x.mode = .lead
  · rw [leadInForce_lead x hs hx, evalLead_unmet _ (leadCondition_eq_false.mpr ?_)]
    rcases hl with h | h
    · exact absurd hx h
    · exact .inr (.inr h)
  · rw [leadInForce_unarmed (s := s.onManager (Manager.inMode x)) (.inl hx)]
    simp only [State.onManager, Manager.inForce, Manager.inMode, if_neg hx]
    congr 2
    by_cases hold : s.manager.settings.mode = .lead <;> simp [hold, hx]

theorem applyTiming_opens {s : State} (x : TimingSettings) (hs : s.manager.state = .armed)
    (hq : s.line.measuring = none ∨ (x.filter = s.manager.settings.filter ∧ x.edge = s.manager.settings.edge))
    (hx : x.mode = .lead) (hm : (s.slots.get x.leadSlot).muted = false) (hf : (s.receivers.get x.leadSlot).fifo ≠ []) :
    applyTiming x s = openCycle .lead false (s.onManager (Manager.inForce x)) := by
  rw [applyTiming_armed x hs hq, leadInForce_lead x hs hx, evalLead,
    if_pos (leadCondition_eq_true (s := s.onManager (Manager.inForce x)).mpr ⟨hx, hs, hm, hf⟩)]

theorem nextCycle_eq (n : Counter) : nextCycle n = if n = 4294967295 then 1 else n + 1 := rfl

/-- Settles O47: the settings in force at once, with the lead condition of SET TIMING met or not. -/
theorem setsInForceAtOnce : Obligations.SetsInForceAtOnce := by
  intro s p h ho
  refine ⟨fun x h1 h2 h3 hloop hs hlatch hd hp hf hm => ?_, fun x h1 h2 h3 hs hl hq => ⟨fun hun => ?_, fun hx hmuted hfifo => ?_⟩,
    fun l x h1 h2 h3 h4 => ?_, fun x h1 h2 h3 h4 => ?_, fun m hm => ?_, fun x t hx => ?_, fun x hx => ?_⟩
  · have hset := setTiming_inForce (p := p) ⟨h1, h2, h3⟩ ho (fun _ hne => absurd hloop hne)
    rw [applyTiming_idle x hs hlatch hd hp hf hm] at hset
    rw [exec_ready h rfl]
    exact congrArg Host.Outcome.next hset
  · have hset := setTiming_inForce (p := p) ⟨h1, h2, h3⟩ ho hl
    rw [applyTiming_unmet x hs hq hun] at hset
    rw [exec_ready h rfl]
    exact congrArg Host.Outcome.next hset
  · have hset := setTiming_inForce (p := p) ⟨h1, h2, h3⟩ ho hl
    rw [applyTiming_opens x hs hq hx hmuted hfifo] at hset
    obtain ⟨o, hopen, hopened, -, -, -, -, hports, -, hmanager, -, -⟩ :=
      openCycle_spec .lead false (s.onManager (Manager.inForce x))
    refine ⟨_, o, (exec_ready h rfl).trans (congrArg Host.Outcome.next hset), hopen, ?_, ?_, ?_, ?_, ?_, ?_, ?_, ?_⟩
    · rw [hopened]; rfl
    · rw [hopened]; rfl
    · rw [hopened]; rfl
    · rw [State.complete_manager, hmanager]; rfl
    · rw [State.complete_manager, hmanager]; rfl
    · rw [State.complete_manager, hmanager]
    · rw [State.complete_manager, hmanager]; rfl
    · rw [State.complete_ports, Pair.get_set_self]
      rfl
  · have hset : setSlot p (x.parameters l) s = (s.onSlot l (Slot.withPolicy x)).complete p
        codeSetSlot ([BitVec.ofNat 8 l.val] ++ x.bytes ++ [0]) := by
      simp only [setSlot, checkSlot_parameters l h1 h2 h3 h4, ho, Bool.false_eq_true, if_false]
      rfl
    rw [exec_ready h rfl]
    exact congrArg Host.Outcome.next hset
  · have hset : setMirror p x.parameters s =
        (s.onMirror (fun m => { m with settings := x, held := none })).complete p codeSetMirror (x.bytes ++ [0]) := by
      simp only [setMirror, checkMirror_parameters h1 h2 h3 h4, ho, Bool.false_eq_true, if_false]
    rw [exec_ready h rfl]
    exact congrArg Host.Outcome.next hset
  · rw [exec_ready h rfl]
    simp only [runCommand, setProbe, checkProbe_accepts hm, probeModeOf_code m, ho, Bool.false_eq_true, if_false]
    rfl
  · rw [exec_ready h rfl]
    simp only [runCommand, setCapture, checkCapture_accepts hx, ho, Bool.false_eq_true, if_false]
    rfl
  · rw [exec_ready h rfl]
    simp only [runCommand, setOffload, checkOffload_accepts hx, offloadSettings_bytes, ho, Bool.false_eq_true, if_false]
    rfl

/-! ## The geometry (R45) -/

theorem checkSlotGeometry_refuses {x : SlotGeometryParams} (h : 1 < x.enabled.toNat ∨ x.slopeCount.toNat < 32 ∨
    1024 < x.slopeCount.toNat ∨ x.slopeCount.toNat % 32 ≠ 0) : checkSlotGeometry x = none := by
  unfold checkSlotGeometry
  split
  · rfl
  · next he =>
    refine inRange_of_false _ ?_
    rcases h with h | h | h | h
    · simp [readFlag_out h] at he
    · simp [show ¬ 32 ≤ x.slopeCount.toNat by omega]
    · simp [show ¬ x.slopeCount.toNat ≤ 1024 by omega]
    · simp [h]

theorem checkSlotGeometry_some {x : SlotGeometryParams} {g : Bool × Byte × Nat} (h : checkSlotGeometry x = some g) :
    geometrySlopes g = if x.enabled == 1 then x.slopeCount.toNat else 0 := by
  have hflag : ∀ b e, readFlag b = some e → (b == 1) = e := by decide
  unfold checkSlotGeometry at h
  split at h
  · cases h
  · next e he =>
    unfold inRange at h
    split at h
    · cases h
      rw [geometrySlopes, hflag _ _ he]
    · cases h

/-- The slopes of the enabled slots of the parameters, one by one. -/
theorem enabledSlopes_sum (x : GeometryParams) :
    ((links.filter (fun l => (x.slots.get l).enabled == 1)).map (fun l => (x.slots.get l).slopeCount.toNat)).sum =
      (links.map (fun l => if (x.slots.get l).enabled == 1 then (x.slots.get l).slopeCount.toNat else 0)).sum := by
  generalize links = ls
  induction ls with
  | nil => rfl
  | cons l ls ih =>
    cases h : (x.slots.get l).enabled == 1 <;>
      simp only [List.filter_cons, h, List.map_cons, List.sum_cons, ih, Bool.false_eq_true, if_false, if_true, zero_add]

theorem checkGeometry_refuses {x : GeometryParams} (h : x.actuatorCount.toNat < 128 ∨ 1024 < x.actuatorCount.toNat ∨
    x.actuatorCount.toNat % 128 ≠ 0 ∨
    (∃ l, (1 < (x.slots.get l).enabled.toNat ∨ (x.slots.get l).slopeCount.toNat < 32 ∨
      1024 < (x.slots.get l).slopeCount.toNat ∨ (x.slots.get l).slopeCount.toNat % 32 ≠ 0)) ∨
    2048 < ((links.filter (fun l => (x.slots.get l).enabled == 1)).map
      (fun l => (x.slots.get l).slopeCount.toNat)).sum) : checkGeometry x = none := by
  unfold checkGeometry
  split
  · next g0 g1 g2 g3 h0 h1 h2 h3 =>
    have hsome : ∀ l, checkSlotGeometry (x.slots.get l) ≠ none := by
      refine Quad.forall_iff.mpr ⟨?_, ?_, ?_, ?_⟩ <;> simp_all [Quad.get]
    refine inRange_of_false _ ?_
    rcases h with h | h | h | ⟨l, h⟩ | h
    · simp [show ¬ 128 ≤ x.actuatorCount.toNat by omega]
    · simp [show ¬ x.actuatorCount.toNat ≤ 1024 by omega]
    · simp [h]
    · exact absurd (checkSlotGeometry_refuses h) (hsome l)
    · have hsum : 2048 < geometrySlopes g0 + geometrySlopes g1 + geometrySlopes g2 + geometrySlopes g3 := by
        rw [enabledSlopes_sum] at h
        rw [checkSlotGeometry_some h0, checkSlotGeometry_some h1, checkSlotGeometry_some h2, checkSlotGeometry_some h3]
        simpa [links, Quad.get, add_assoc] using h
      simp only [decide_eq_false (show ¬ geometrySlopes g0 + geometrySlopes g1 + geometrySlopes g2 +
        geometrySlopes g3 ≤ 2048 by omega), Bool.and_false]
  · rfl

/-- The posts of a geometry, with the parameters' flags read as bytes. -/
theorem enablePosts_eq (x : GeometryParams) (s : State) :
    [(0 : LinkId), 1, 2, 3].foldl (fun (u : State) l =>
      if ((x.slots.map (fun y => (y.enabled == 1, y.tag, y.slopeCount.toNat))).get l).1 = (s.slots.get l).enabled then u
      else u.post (.slotChange l
        (if ((x.slots.map (fun y => (y.enabled == 1, y.tag, y.slopeCount.toNat))).get l).1 then .active
        else .disabled))) s =
    [(0 : LinkId), 1, 2, 3].foldl (fun u l =>
      if ((x.slots.get l).enabled == 1) = (s.slots.get l).enabled then u
      else u.post (.slotChange l (if (x.slots.get l).enabled = 1 then .active else .disabled))) s := by
  simp only [Quad.get_map, beq_iff_eq]

/-- Settles O44: refused outside IDLE and out of range, else taken. -/
theorem setGeometryInIdle : Obligations.SetGeometryInIdle := by
  refine ⟨slopeBase_eq_sum, fun s p x h => ⟨fun hloop => ?_, fun hloop hbad => ?_, fun hloop h1 h2 h3 h4 h5 => ?_⟩⟩
  · rw [exec_ready h rfl]
    exact congrArg Host.Outcome.next (if_pos hloop)
  · rw [exec_ready h rfl]
    simp only [runCommand, setGeometry, checkGeometry_refuses hbad, hloop, ne_eq, not_true_eq_false, if_false]
    rfl
  · have hflags : ∀ l, (x.slots.get l).enabled.toNat ≤ 1 := fun l => (h4 l).1
    set g := x.slots.map (fun y => (y.enabled == 1, y.tag, y.slopeCount.toNat)) with hg
    have hget : ∀ l, g.get l = ((x.slots.get l).enabled == 1, (x.slots.get l).tag, (x.slots.get l).slopeCount.toNat) :=
      fun l => Quad.get_map _ _ _
    have hset : setGeometry p x s = (takeGeometry x.actuatorCount.toNat g s).complete p codeSetGeometry
        (geometryData x.actuatorCount.toNat (withGeometry g s.slots)) := by
      simp only [setGeometry, checkGeometry_accepts x h1 h2 h3 h4 h5, hloop, ne_eq, not_true_eq_false, if_false]
      rfl
    rw [geometryData_eq x s hflags, takeGeometry_spec] at hset
    refine ⟨_, (exec_ready h rfl).trans (congrArg Host.Outcome.next hset), rfl, fun l e y he hy => ?_, fun posted hposted => ?_, rfl⟩
    · have hslot : (withGeometry g s.slots).get l = (s.slots.get l).withGeometry (g.get l) := Quad.get_tabulate _ _
      have hcases := withGeometry_cases (g.get l) (s.slots.get l) y (by rw [hget, hy, he])
      rw [hget, ← he] at hcases
      simp only [State.complete_slots, hslot, hget, ← he]
      exact hcases
    · have hports := takeGeometry_ports x.actuatorCount.toNat g s
      rw [hg, enablePosts_eq x s, ← hposted, ← hg] at hports
      simp only [State.complete_ports, hports, State.onPort_ports]
      rfl

end Sys2Proof.Machine

/-!
SUPPORT. The bytes of the ports: transactions, the bytes of a command and of a result.
-/
namespace Sys2Proof.Machine

/-! ## Transactions (R40) -/

theorem Port.attention_iff (x : Port) : x.attention = true ↔ (∃ r n, x.activity = .result r n) ∨ x.queue ≠ [] := by
  unfold Port.attention Port.phase Port.attn
  cases x.activity <;> simp

theorem Port.statusByte_eq (x : Port) : x.statusByte =
    (match x.activity with
      | .idle => 0x80
      | .command _ => 0x01
      | .executing _ => 0x42
      | .result _ _ => 0x23) ||| (if x.queue = [] then 0 else 0x10) := by
  unfold Port.statusByte Port.phase Port.attn
  by_cases hq : x.queue = [] <;> cases x.activity <;> simp [hq, flagBit, PortPhase.code]

theorem Port.kindOf_eq (b : Byte) (d : Bool) (x : Port) : x.kindOf b d =
    if b = 1 then .status
    else if b = 2 ∧ d = false then .put
    else if b = 3 then
      (match x.activity with
        | .result _ _ => .take
        | _ => .ignored)
    else .ignored := by
  unfold Port.kindOf Port.phase
  cases x.activity <;> simp

/-- Settles O36: the kind of a transaction is chosen by its first byte. -/
theorem transactions : Obligations.Transactions := by
  refine ⟨Port.attention_iff, Port.takesCommand_iff, fun s p b h => ⟨fun ht => ?_, fun y d ht => ?_, exec_running _ h⟩⟩
  · have hselect : Port.select (s.ports.get p) = { s.ports.get p with
        transaction := some { statusByte := (s.ports.get p).statusByte, kind := .awaiting, discarded := false } } := by
      rw [Port.select, ht]
    rw [Port.statusByte_eq] at hselect
    rw [exec_running _ h]
    exact congrArg Host.Outcome.next (onPort_congr s p _ _ hselect)
  · have htake : Port.takeTransactionByte b (s.ports.get p) = { s.ports.get p with
        sent := y
        transaction := some { statusByte := y, kind := (s.ports.get p).kindOf b d, discarded := d } } := by
      rw [Port.takeTransactionByte, ht]
      rfl
    rw [Port.kindOf_eq] at htake
    rw [exec_running _ h]
    exact congrArg Host.Outcome.next (onPort_congr s p _ _ htake)

/-! ## The bytes of a result (R42) -/

theorem kind_of_transaction {x : Port} {y : Byte} {k : TransactionKind} {d : Bool}
    (h : x.transaction = some { statusByte := y, kind := k, discarded := d }) : x.kind = some k := by
  simp [Port.kind, h]

/-- A byte of a transaction that moves no command and no result is answered with 0. -/
theorem resultByte_zero {s : State} {p : PortId} (h : (s.ports.get p).kind = some .ignored ∨
    (s.ports.get p).kind = some .status) : resultByte p s = s.onPort p Port.answerZero := by
  unfold resultByte
  rcases h with h | h <;> rw [h]

theorem commandByte_zero {s : State} {p : PortId} (b : Byte) (h : (s.ports.get p).kind = some .ignored ∨
    (s.ports.get p).kind = some .status) : commandByte p b s = s.onPort p Port.answerZero := by
  unfold commandByte
  rcases h with h | h <;> rw [h]

theorem resultByte_take {s : State} {p : PortId} (h : (s.ports.get p).kind = some .take) :
    resultByte p s = s.onPort p Port.sendResultByte := by
  unfold resultByte
  rw [h]

theorem ResultRecord.bytes_length (r : ResultRecord) : r.bytes.length = r.data.length + 5 := by
  simp only [ResultRecord.bytes, bytes16, List.length_append, List.length_cons, List.length_nil]
  omega

theorem ResultRecord.bytes_eq (r : ResultRecord) : r.bytes =
    [r.code, r.cls.code, r.reason.code, BitVec.ofNat 8 (r.data.length / 256), BitVec.ofNat 8 r.data.length] ++ r.data := by
  have hlow : (BitVec.ofNat 16 r.data.length).extractLsb' 0 8 = BitVec.ofNat 8 r.data.length :=
    BitVec.eq_of_toNat_eq (by simp)
  have hhigh : (BitVec.ofNat 16 r.data.length).extractLsb' 8 8 = BitVec.ofNat 8 (r.data.length / 256) :=
    BitVec.eq_of_toNat_eq (by simp [Nat.shiftRight_eq_div_pow]; omega)
  simp [ResultRecord.bytes, bytes16, hlow, hhigh]

/-- Settles O38: a byte of the result, its last byte, and the transactions answered with 0. -/
theorem resultBytes : Obligations.ResultBytes := by
  refine ⟨fun s p y d r n h ht ha => ⟨fun hn => ?_, fun hn => ?_, ?_⟩, fun s p b y d k h ht hk => ⟨?_, ?_⟩⟩
  · have hsend : Port.sendResultByte (s.ports.get p) =
        { s.ports.get p with sent := r.bytes.getD n 0, activity := .result r (n + 1) } := by
      rw [Port.sendResultByte, ha]
      exact if_pos (by rwa [ResultRecord.bytes_length])
    rw [exec_running _ h]
    exact congrArg Host.Outcome.next
      ((resultByte_take (kind_of_transaction ht)).trans (onPort_congr s p _ _ hsend))
  · have hsend : Port.sendResultByte (s.ports.get p) =
        { s.ports.get p with
          sent := r.bytes.getD n 0
          activity := .idle
          transaction := some { statusByte := y, kind := .ignored, discarded := d } } := by
      rw [Port.sendResultByte, ha]
      refine (if_neg (by rw [ResultRecord.bytes_length]; omega)).trans ?_
      simp [Port.resultTaken, ht]
    rw [exec_running _ h]
    exact congrArg Host.Outcome.next
      ((resultByte_take (kind_of_transaction ht)).trans (onPort_congr s p _ _ hsend))
  · rw [ResultRecord.bytes_eq]
    unfold ResultClass.code Reason.code
    cases r.cls <;> cases r.reason <;> rfl
  · have hkind := kind_of_transaction ht
    rw [exec_running _ h]
    exact congrArg Host.Outcome.next (resultByte_zero (by rcases hk with rfl | rfl <;> simp [hkind]))
  · have hkind := kind_of_transaction ht
    rw [exec_running _ h]
    exact congrArg Host.Outcome.next (commandByte_zero b (by rcases hk with rfl | rfl <;> simp [hkind]))

/-! ## The words that the bytes of a command make -/

@[simp] theorem word16_halves (w : Word) : word16 (w.extractLsb' 8 8) (w.extractLsb' 0 8) = w := by
  apply BitVec.eq_of_toNat_eq
  simp only [word16, BitVec.toNat_append, BitVec.extractLsb'_toNat, Nat.shiftRight_eq_div_pow, Nat.shiftLeft_eq]
  rw [← Nat.shiftLeft_eq, ← Nat.shiftLeft_add_eq_or_of_lt (by omega), Nat.shiftLeft_eq]
  have := w.isLt
  omega

@[simp] theorem word32_quarters (w : BitVec 32) :
    word32 (w.extractLsb' 24 8) (w.extractLsb' 16 8) (w.extractLsb' 8 8) (w.extractLsb' 0 8) = w := by
  apply BitVec.eq_of_getLsbD_eq
  intro i hi
  simp only [word32, BitVec.getLsbD_append, BitVec.getLsbD_extractLsb']
  grind

theorem wordsOf_bytes (ws : List Word) : wordsOf (ws.map bytes16).flatten = ws := by
  induction ws with
  | nil => rfl
  | cons w ws ih => simp [bytes16, wordsOf, ih]

/-! ## The bytes of a command (R41) -/

/-- The parameters a record holds after one more byte: a command keeps as many as its table row. -/
def CommandRecord.held (r : CommandRecord) (b : Byte) : List Byte :=
  if r.params.length < heldBytes r.code then r.params ++ [b] else r.params

theorem CommandRecord.held_of_lt {r : CommandRecord} {b : Byte} (h : r.params.length < heldBytes r.code) :
    r.held b = r.params ++ [b] := if_pos h

theorem receiveRecord_incomplete {r : CommandRecord} (h : r.isComplete = false) (p : PortId) (s : State) :
    receiveRecord p r s = s.onPort p (fun q => { q with activity := .command r }) := by
  simp [receiveRecord, h]

theorem receiveRecord_complete {r : CommandRecord} (h : r.isComplete = true) (p : PortId) (s : State) :
    receiveRecord p r s = judge p r.code r.counted r.params s := by
  simp [receiveRecord, h]

theorem judge_unknown {code : Byte} (h : code ∉ commandCodes) (p : PortId) (n : Nat) (bs : List Byte) (s : State) :
    judge p code n bs s = s.reject p code .unknownCommand := by
  simp [judge, h]

theorem judge_badLength {code : Byte} {n : Nat} {bs : List Byte} (hc : code ∈ commandCodes)
    (h : requiredLength code bs ≠ some n) (p : PortId) (s : State) :
    judge p code n bs s = s.reject p code .badLength := by
  simp [judge, hc, h]

theorem judge_runs {code : Byte} {n : Nat} {bs : List Byte} {c : PortCommand} (hc : code ∈ commandCodes)
    (h : requiredLength code bs = some n) (hr : readParameters code bs = some c) (p : PortId) (s : State) :
    judge p code n bs s = runCommand p c s := by
  simp [judge, hc, h, hr]

/-- The port is in a transaction that gives a command. -/
def TakesByte (s : State) (p : PortId) : Prop := s.resetActs = false ∧ (s.ports.get p).kind = some .put

theorem exec_offerByte {s : State} {p : PortId} (b : Byte) (h : TakesByte s p) :
    exec (.commandByte p b) s = .next (offerByte p b (s.onPort p Port.answerZero)) := by
  rw [exec_running _ h.1]
  simp only [whenRunning, commandByte, h.2]

theorem answerZero_activity (s : State) (p : PortId) :
    ((s.onPort p Port.answerZero).ports.get p).activity = (s.ports.get p).activity := by
  simp [Port.answerZero]

/-- A byte of a record in progress. -/
theorem exec_recordByte {s : State} {p : PortId} {r : CommandRecord} (b : Byte) (h : TakesByte s p)
    (ha : (s.ports.get p).activity = .command r) :
    exec (.commandByte p b) s = .next (receiveRecord p (r.take b) (s.onPort p Port.answerZero)) := by
  rw [exec_offerByte b h]
  simp only [offerByte, answerZero_activity, ha]

/-- A byte that does not complete its record is added to it. -/
theorem exec_recordByte_incomplete {s : State} {p : PortId} {r : CommandRecord} (b : Byte) (h : TakesByte s p)
    (ha : (s.ports.get p).activity = .command r) (hr : (r.take b).isComplete = false) :
    exec (.commandByte p b) s =
      .next (s.onPort p (fun q => { q with sent := 0, activity := .command (r.take b) })) := by
  rw [exec_recordByte b h ha, receiveRecord_incomplete hr]
  exact congrArg Host.Outcome.next (onPort_onPort s p _ _)

/-- The last byte of a record. -/
theorem exec_lastByte {s : State} {p : PortId} {r : CommandRecord} {hi : Byte} {n : Word} (b : Byte) (h : TakesByte s p)
    (ha : (s.ports.get p).activity = .command r) (hhi : r.lengthHigh = some hi) (hn : r.length = some n)
    (hc : r.counted + 1 = n.toNat) : exec (.commandByte p b) s =
      .next (judge p r.code n.toNat (r.held b) (s.onPort p Port.answerZero)) := by
  have htake : r.take b = { r with counted := r.counted + 1, params := r.held b } := by
    simp only [CommandRecord.take, hhi, hn]
    rfl
  rw [exec_recordByte b h ha, htake, receiveRecord_complete (by simp [CommandRecord.isComplete, hn, hc]), ← hc]

/-- The last byte of a record without parameters is the low byte of its length. -/
theorem exec_lengthZero {s : State} {p : PortId} {r : CommandRecord} (h : TakesByte s p)
    (ha : (s.ports.get p).activity = .command r) (hhi : r.lengthHigh = some 0) (hn : r.length = none)
    (hc : r.counted = 0) (hp : r.params = []) : exec (.commandByte p 0) s =
      .next (judge p r.code 0 [] (s.onPort p Port.answerZero)) := by
  have htake : r.take 0 = { r with length := some 0 } := by
    simp only [CommandRecord.take, hhi, hn]
    rfl
  rw [exec_recordByte 0 h ha, htake, receiveRecord_complete (by simp [CommandRecord.isComplete, hc]), hc, hp]

/-- A refusal after the byte of the port was answered with 0. -/
theorem reject_answerZero (s : State) (p : PortId) (code : Byte) (reason : Reason) :
    (s.onPort p Port.answerZero).reject p code reason = s.onPort p (fun q =>
      { q with sent := 0, activity := .result { code := code, cls := .rejected, reason := reason, data := [] } 0 }) :=
  onPort_onPort s p Port.answerZero (fun q =>
    { q with activity := .result { code := code, cls := .rejected, reason := reason, data := [] } 0 })

/-- A result after the byte of the port was answered with 0. -/
theorem complete_answerZero (s : State) (p : PortId) (code : Byte) (data : List Byte) :
    (s.onPort p Port.answerZero).complete p code data = s.onPort p (fun q =>
      { q with sent := 0, activity := .result { code := code, cls := .complete, reason := .none, data := data } 0 }) :=
  onPort_onPort s p Port.answerZero (fun q =>
    { q with activity := .result { code := code, cls := .complete, reason := .none, data := data } 0 })

theorem portReady_answerZero {s : State} {p : PortId} {r : CommandRecord} (h : TakesByte s p)
    (ha : (s.ports.get p).activity = .command r) : (s.onPort p Port.answerZero).portReady p :=
  ⟨h.1, (Port.takesCommand_iff _).mpr (.inr ⟨r, by rw [answerZero_activity, ha]⟩)⟩

/-- A completed record runs as the row of its command. -/
theorem judge_as_row {s : State} {p : PortId} {r : CommandRecord} {code : Byte} {n : Nat} {bs : List Byte}
    {c : PortCommand} {row : Instr} (h : TakesByte s p) (ha : (s.ports.get p).activity = .command r)
    (hrow : whenRunning row = State.arrive p (runCommand p c)) (hc : code ∈ commandCodes)
    (hlen : requiredLength code bs = some n) (hread : readParameters code bs = some c) :
    Host.Outcome.next (judge p code n bs (s.onPort p Port.answerZero)) = exec row (s.onPort p Port.answerZero) := by
  rw [judge_runs hc hlen hread, exec_ready (portReady_answerZero h ha) hrow]

/-- The codes with parameters of a fixed length, and the length. -/
def fixedLengths : List (Byte × Nat) :=
  [(0x01, 0), (0x02, 1), (0x10, 18), (0x11, 13), (0x12, 7), (0x13, 6), (0x14, 1), (0x15, 10), (0x16, 3), (0x21, 8),
    (0x22, 2), (0x30, 1), (0x40, 0), (0x41, 0), (0x50, 0)]

theorem requiredLength_fixed (bs : List Byte) : ∀ k ∈ fixedLengths,
    k.1 ∈ commandCodes ∧ requiredLength k.1 bs = some k.2 ∧ heldBytes k.1 = k.2 := by
  simp only [fixedLengths, List.forall_mem_cons, List.not_mem_nil, false_implies, implies_true, and_true]
  refine ⟨?_, ?_, ?_, ?_, ?_, ?_, ?_, ?_, ?_, ?_, ?_, ?_, ?_, ?_, ?_⟩ <;> exact ⟨by decide, rfl, rfl⟩

theorem requiredLength_load_short {bs : List Byte} (h : bs.length < 7) : requiredLength codeLoad bs = none := by
  match bs, h with
  | [], _ => rfl
  | [_], _ => rfl
  | [_, _], _ => rfl
  | [_, _, _], _ => rfl
  | [_, _, _, _], _ => rfl
  | [_, _, _, _, _], _ => rfl
  | [_, _, _, _, _, _], _ => rfl
  | _ :: _ :: _ :: _ :: _ :: _ :: _ :: bs, h => simp at h; omega

/-- The status does not report the byte last sent. -/
theorem statusData_answerZero (s : State) (p : PortId) :
    statusData p (s.onPort p Port.answerZero) = statusData p s := by
  have hports : portStatus (s.onPort p Port.answerZero).ports p = portStatus s.ports p := by
    cases p <;> rfl
  unfold statusData
  rw [hports]
  rfl

end Sys2Proof.Machine

/-!
SUPPORT. The bytes of a command, continued: the completed record as the row of its command.
-/
namespace Sys2Proof.Machine

/-! ## The parameters of the commands, read back -/

theorem readParameters_setGeometry (c : Word) (x0 x1 x2 x3 : SlotGeometryParams) :
    readParameters codeSetGeometry
      (bytes16 c ++ ([x0, x1, x2, x3].map (fun x => [x.enabled, x.tag] ++ bytes16 x.slopeCount)).flatten) =
      some (.setGeometry { actuatorCount := c, slots := ⟨x0, x1, x2, x3⟩ }) :=
  (show _ = some (PortCommand.setGeometry ⟨word16 _ _,
    ⟨⟨_, _, word16 _ _⟩, ⟨_, _, word16 _ _⟩, ⟨_, _, word16 _ _⟩, ⟨_, _, word16 _ _⟩⟩⟩) from rfl).trans
    (by simp only [word16_halves])

theorem readParameters_setTiming (x : TimingParams) :
    readParameters codeSetTiming
      ([x.mode, x.leadSlot, x.edge, x.filter] ++ bytes16 x.delay ++ bytes16 x.period ++ bytes16 x.deadline ++
        [x.queue] ++ bytes16 x.fallback) = some (.setTiming x) :=
  (show _ = some (PortCommand.setTiming
    ⟨_, _, _, _, word16 _ _, word16 _ _, word16 _ _, _, word16 _ _⟩) from rfl).trans (by simp only [word16_halves])

theorem readParameters_setMirror (x : MirrorParams) :
    readParameters codeSetMirror (bytes16 x.readyTimeout ++ bytes16 x.ackTimeout ++ [x.gap, x.faultLimit]) =
      some (.setMirror x) :=
  (show _ = some (PortCommand.setMirror ⟨word16 _ _, word16 _ _, _, _⟩) from rfl).trans (by simp only [word16_halves])

theorem readParameters_setCapture (x : CaptureParams) :
    readParameters codeSetCapture
      ([x.pattern, x.content] ++ bytes16 x.first ++ bytes16 x.second ++ bytes32 x.mask) = some (.setCapture x) :=
  (show _ = some (PortCommand.setCapture ⟨_, _, word16 _ _, word16 _ _, word32 _ _ _ _⟩) from rfl).trans
    (by simp only [word16_halves, word32_quarters])

theorem readParameters_setOffload (x : OffloadParams) :
    readParameters codeSetOffload (bytes16 x.window ++ [x.mask]) = some (.setOffload x) :=
  (show _ = some (PortCommand.setOffload ⟨word16 _ _, _⟩) from rfl).trans (by simp only [word16_halves])

theorem readParameters_readBack (x : ReadBackParams) :
    readParameters codeReadBack ([x.store, x.copy] ++ bytes32 x.first ++ bytes16 x.count) = some (.readBack x) :=
  (show _ = some (PortCommand.readBack ⟨_, _, word32 _ _ _ _, word16 _ _⟩) from rfl).trans
    (by simp only [word16_halves, word32_quarters])

theorem readParameters_apply (x : Word) : readParameters codeApply (bytes16 x) = some (.apply x) :=
  (show _ = some (PortCommand.apply (word16 _ _)) from rfl).trans (by simp only [word16_halves])

theorem readParameters_load (id c1 c0 : Byte) (i : BitVec 32) (bs : List Byte) :
    readParameters codeLoad ([id] ++ bytes32 i ++ [c1, c0] ++ bs) =
      some (.load { store := id, first := i, count := c1 ++ c0, words := wordsOf bs }) :=
  (show _ = some (PortCommand.load ⟨_, word32 _ _ _ _, word16 _ _, wordsOf bs⟩) from rfl).trans
    (by simp only [word32_quarters, word16])

theorem requiredLength_load (id c1 c0 : Byte) (i : BitVec 32) (bs : List Byte) :
    requiredLength codeLoad ([id] ++ bytes32 i ++ [c1, c0] ++ bs) = some (7 + 2 * (c1 ++ c0 : Word).toNat) := rfl

/-! ## The last byte of a record -/

/-- A record whose parameters have the fixed length of their code runs as the row of its command. -/
theorem exec_lastByte_row {s : State} {p : PortId} {r : CommandRecord} {hi code : Byte} {n : Word} {b : Byte}
    {bs : List Byte} {c : PortCommand} {row : Instr} (h : TakesByte s p) (ha : (s.ports.get p).activity = .command r)
    (hhi : r.lengthHigh = some hi) (hn : r.length = some n) (hc : r.counted + 1 = n.toNat)
    (hlen : r.params.length = r.counted) (hbs : bs = r.params ++ [b]) (hcode : r.code = code)
    (hk : (code, bs.length) ∈ fixedLengths) (hrow : whenRunning row = State.arrive p (runCommand p c))
    (hread : readParameters code bs = some c) :
    exec (.commandByte p b) s = exec row (s.onPort p Port.answerZero) := by
  obtain ⟨hmem, hreq, hheld⟩ := requiredLength_fixed bs _ hk
  have hlength : bs.length = r.params.length + 1 := by rw [hbs, List.length_append, List.length_singleton]
  have hparams : r.held b = bs := by
    rw [hbs]
    refine CommandRecord.held_of_lt ?_
    rw [hcode, hheld]
    omega
  rw [exec_lastByte b h ha hhi hn hc, hparams, hcode]
  exact judge_as_row h ha hrow hmem (hreq.trans (congrArg some (by dsimp only; omega))) hread

/-- A record of one parameter byte runs as the row of its command. -/
theorem exec_onlyByte_row {s : State} {p : PortId} {r : CommandRecord} {hi code : Byte} {b : Byte} {c : PortCommand}
    {row : Instr} (h : TakesByte s p) (ha : (s.ports.get p).activity = .command r) (hhi : r.lengthHigh = some hi)
    (hn : r.length = some 1) (hc : r.counted + 1 = 1) (hlen : r.params.length = r.counted) (hcode : r.code = code)
    (hk : (code, 1) ∈ fixedLengths) (hrow : whenRunning row = State.arrive p (runCommand p c))
    (hread : readParameters code [b] = some c) :
    exec (.commandByte p b) s = exec row (s.onPort p Port.answerZero) := by
  have hnil : r.params = [] := List.length_eq_zero_iff.mp (by omega)
  exact exec_lastByte_row (bs := [b]) h ha hhi hn hc hlen (by rw [hnil]; rfl) hcode hk hrow hread

theorem loopTarget_none {b : Byte} (h : b = 0 ∨ 5 < b.toNat) : LoopTarget.ofByte b = none := by
  have hnone : ∀ b : Byte, (b = 0 ∨ 5 < b.toNat) → (LoopTarget.ofByte b).isNone = true := by decide
  exact Option.isNone_iff_eq_none.mp (hnone b h)

theorem rangeFits_of_count {id : StoreId} {first : BitVec 32} {count : Word} (h : 4096 < count.toNat) :
    rangeFits id first count = false := by
  have hcount : ¬ count.toNat ≤ Config.transferWords := by
    rw [Config.transferWords]
    omega
  simp only [rangeFits, decide_eq_false hcount, Bool.and_false, Bool.false_and]

theorem heldBytes_table : ∀ k ∈ [((0x01 : Byte), 0), (0x02, 1), (0x10, 18), (0x11, 13), (0x12, 7), (0x13, 6), (0x14, 1),
    (0x15, 10), (0x16, 3), (0x20, 8199), (0x21, 8), (0x22, 2), (0x30, 1), (0x40, 0), (0x41, 0), (0x50, 0)],
    heldBytes k.1 = k.2 := by
  decide

theorem requiredLength_empty : ∀ c ∈ commandCodes, c ∉ [(0x01 : Byte), 0x40, 0x41, 0x50] →
    requiredLength c [] ≠ some 0 := by
  decide

/-- Settles O37: the bytes of a record by how far it is, and the completed record by its code. -/
theorem commandBytes : Obligations.CommandBytes := by
  refine ⟨rfl, heldBytes_table, heldBytes_of_unknown, fun s p b y d hr ht => ?_⟩
  have h : TakesByte s p := ⟨hr, kind_of_transaction ht⟩
  refine ⟨fun ha => ?_, fun r ha hhi hn => ?_, fun r hi ha hhi hn hc hne => ?_, fun r hi n ha hhi hn hlt => ?_,
    fun hbusy => ?_, fun r ha hhi hn hc hp => ⟨fun hcode => ?_, fun hcode hsome => ?_, ?_⟩,
    fun r hi n ha hhi hn hc z hz => ⟨fun hcode => ?_, fun k hk hcode hne => ?_, fun hcode hlen hshort => ?_, ?_, ?_⟩⟩
  · rw [exec_offerByte b h]
    simp only [offerByte, answerZero_activity, ha]
    exact congrArg Host.Outcome.next
      (onPort_onPort s p Port.answerZero (fun q => { q with activity := .command (newRecordOf b) }))
  · have htake : r.take b = { r with lengthHigh := some b } := by simp only [CommandRecord.take, hhi]
    rw [exec_recordByte_incomplete b h ha (by simp [htake, CommandRecord.isComplete, hn]), htake]
  · have htake : r.take b = { r with length := some (hi ++ b) } := by
      simp only [CommandRecord.take, hhi, hn]
      rfl
    have hzero : (hi ++ b : Word).toNat ≠ 0 := fun h0 => hne (BitVec.eq_of_toNat_eq h0)
    rw [exec_recordByte_incomplete b h ha (by simp only [htake, CommandRecord.isComplete, hc, beq_eq_false_iff_ne]; exact hzero.symm),
      htake]
  · have htake : r.take b = { r with counted := r.counted + 1, params := r.held b } := by
      simp only [CommandRecord.take, hhi, hn]
      rfl
    rw [exec_recordByte_incomplete b h ha
      (by simp only [htake, CommandRecord.isComplete, hn, beq_eq_false_iff_ne]; omega), htake]
    rfl
  · rw [exec_offerByte b h]
    refine congrArg Host.Outcome.next ?_
    rcases hbusy with ⟨c, ha⟩ | ⟨r, n, ha⟩ <;> simp only [offerByte, answerZero_activity, ha] <;> rfl
  · rw [exec_lengthZero h ha hhi hn hc hp, judge_unknown hcode, reject_answerZero]
  · rw [exec_lengthZero h ha hhi hn hc hp, judge_badLength hcode (requiredLength_empty _ hcode hsome), reject_answerZero]
  · rintro z rfl
    have hrun := exec_lengthZero h ha hhi hn hc hp
    refine ⟨fun hcode => ?_, fun hcode => ?_, fun hcode => ?_, fun hcode => ?_⟩ <;> rw [hcode] at hrun <;> rw [hrun]
    · rw [judge_runs (c := .getStatus) (by decide) rfl rfl]
      have hstatus : runCommand p .getStatus (s.onPort p Port.answerZero) =
          (s.onPort p Port.answerZero).complete p codeGetStatus (statusData p s) := by
        rw [← statusData_answerZero]
        rfl
      rw [hstatus, complete_answerZero]
      rfl
    · exact judge_as_row h ha rfl (by decide) rfl rfl
    · exact judge_as_row h ha rfl (by decide) rfl rfl
    · exact judge_as_row h ha rfl (by decide) rfl rfl
  · rw [exec_lastByte b h ha hhi hn hc, judge_unknown hcode, reject_answerZero]
  · obtain ⟨hmem, hreq, -⟩ := requiredLength_fixed (r.held b) k hk
    rw [← hcode] at hmem hreq
    rw [exec_lastByte b h ha hhi hn hc,
      judge_badLength hmem (by rw [hreq]; exact fun he => hne (Option.some.inj he).symm), reject_answerZero]
  · have hheld : (r.held b).length < 7 := by
      rw [CommandRecord.held_of_lt (by rw [hcode, show heldBytes 0x20 = 8199 from rfl]; omega), List.length_append,
        List.length_singleton]
      omega
    rw [exec_lastByte b h ha hhi hn hc, hcode,
      judge_badLength (by decide) (by rw [show (0x20 : Byte) = codeLoad from rfl, requiredLength_load_short hheld]; nofun),
      reject_answerZero]
  · intro hcode id c1 c0 i bs hbs
    have hheld : r.held b = [id] ++ bytes32 i ++ [c1, c0] ++ bs := by
      rw [← hbs, CommandRecord.held, hcode, show heldBytes 0x20 = 8199 from rfl]
    have hlast := exec_lastByte b h ha hhi hn hc
    rw [hheld, hcode] at hlast
    have hload : (0x20 : Byte) ∈ commandCodes := by decide
    refine ⟨fun hne => ?_, fun hlen hmany => ?_, fun ws hlen hfew hws => ?_⟩
    · rw [hlast, judge_badLength hload, reject_answerZero]
      rw [show (0x20 : Byte) = codeLoad from rfl, requiredLength_load]
      exact fun he => hne (Option.some.inj he).symm
    · rw [hlast, judge_runs hload ((requiredLength_load id c1 c0 i bs).trans (congrArg some hlen.symm))
        (readParameters_load id c1 c0 i bs)]
      have hrefused := load_badParameter (x := { store := id, first := i, count := c1 ++ c0, words := wordsOf bs }) p
        (s.onPort p Port.answerZero) (fun _ _ => rangeFits_of_count hmany)
      rw [runCommand, hrefused, reject_answerZero]
      rfl
    · rw [hlast, hz]
      refine judge_as_row h ha rfl hload ((requiredLength_load id c1 c0 i bs).trans (congrArg some hlen.symm)) ?_
      rw [show (0x20 : Byte) = codeLoad from rfl, readParameters_load, hws, wordsOf_bytes]
  · intro hlen bs hbs
    subst hz
    refine ⟨fun hcode hone => ?_, fun hcode c x0 x1 x2 x3 hx => ?_, fun hcode x hx => ?_, fun hcode x hx => ?_,
      fun hcode x hx => ?_, fun hcode hone => ?_, fun hcode x hx => ?_, fun hcode x hx => ?_, fun hcode x hx => ?_,
      fun hcode x hx => ?_, fun hcode hone => ?_⟩
    · subst hone
      exact exec_onlyByte_row h ha hhi hn hc hlen hcode (by decide) rfl rfl
    · exact exec_lastByte_row h ha hhi hn hc hlen hbs hcode (by rw [hx]; simp [fixedLengths, bytes16]) rfl
        (by rw [hx]; exact readParameters_setGeometry c x0 x1 x2 x3)
    · exact exec_lastByte_row h ha hhi hn hc hlen hbs hcode (by rw [hx]; simp [fixedLengths, bytes16]) rfl
        (by rw [hx]; exact readParameters_setTiming x)
    · exact exec_lastByte_row h ha hhi hn hc hlen hbs hcode (by rw [hx]; simp [fixedLengths]) rfl (by rw [hx]; rfl)
    · exact exec_lastByte_row h ha hhi hn hc hlen hbs hcode (by rw [hx]; simp [fixedLengths, bytes16]) rfl
        (by rw [hx]; exact readParameters_setMirror x)
    · subst hone
      exact exec_onlyByte_row h ha hhi hn hc hlen hcode (by decide) rfl rfl
    · exact exec_lastByte_row h ha hhi hn hc hlen hbs hcode (by rw [hx]; simp [fixedLengths, bytes16, bytes32]) rfl
        (by rw [hx]; exact readParameters_setCapture x)
    · exact exec_lastByte_row h ha hhi hn hc hlen hbs hcode (by rw [hx]; simp [fixedLengths, bytes16]) rfl
        (by rw [hx]; exact readParameters_setOffload x)
    · exact exec_lastByte_row h ha hhi hn hc hlen hbs hcode (by rw [hx]; simp [fixedLengths, bytes16, bytes32]) rfl
        (by rw [hx]; exact readParameters_readBack x)
    · exact exec_lastByte_row h ha hhi hn hc hlen hbs hcode (by rw [hx]; simp [fixedLengths, bytes16]) rfl
        (by rw [hx]; exact readParameters_apply x)
    · subst hone
      have hloop : ∀ {row : Instr}, whenRunning row = State.arrive p (runCommand p (.loop b)) →
          exec (.commandByte p b) s = exec row (s.onPort p Port.answerZero) := fun hrow =>
        exec_onlyByte_row h ha hhi hn hc hlen hcode (by decide) hrow rfl
      refine ⟨?_, ?_, ?_, ?_, ?_, fun hbad => ?_⟩
      · rintro rfl; exact hloop rfl
      · rintro rfl; exact hloop rfl
      · rintro rfl; exact hloop rfl
      · rintro rfl; exact hloop rfl
      · rintro rfl; exact hloop rfl
      · have hheld : r.held b = [b] := by
          rw [CommandRecord.held_of_lt (by rw [hcode, hlen, show heldBytes 0x30 = 1 from rfl]; simpa using hc),
            show r.params = [] from List.length_eq_zero_iff.mp (by rw [hlen]; simpa using hc), List.nil_append]
        rw [exec_lastByte b h ha hhi hn hc, hheld, hcode, judge_runs (c := .loop b) (by decide) rfl rfl, runCommand,
          loopCommand, loopTarget_none hbad]
        exact congrArg Host.Outcome.next (reject_answerZero s p _ _)

end Sys2Proof.Machine

/-!
SUPPORT. The answers that report: GET STATUS and READ COUNTERS, and a word of a LOAD.
-/
namespace Sys2Proof.Machine

/-! ## GET STATUS (R60) -/

/-- A field that is present or absent has the same number of bytes. -/
theorem eq_presence {opt : Nat → Option (List Byte) → List Byte} (hnone : ∀ n, opt n none = List.replicate (n + 1) 0)
    (hsome : ∀ n bs, opt n (some bs) = 1 :: bs) : opt = presence := by
  funext n x
  cases x with
  | none => exact hnone n
  | some bs => exact hsome n bs

theorem configurationStatus_eq (c : StoreController) : configurationStatus c =
    bytes16 c.generation ++
      (match c.load with
        | .idle => [0] ++ presence 4 none
        | .loading j => [1] ++ presence 4 (some ([BitVec.ofNat 8 j.store.number, portCode j.port] ++
            bytes16 (BitVec.ofNat 16 j.written)))) ++
      presence 3 (c.pendingApply.map (fun a => bytes16 (a.selection.setWidth 16) ++ [portCode a.port])) := by
  unfold configurationStatus
  cases c.load <;> simp [LoadEngine.code, LoadEngine.job, count16]

theorem mirrorStatus_eq (m : MirrorLink) : mirrorStatus m =
    (match m.activity with
      | .idle => [0] ++ presence 4 none
      | .writing w x =>
        [match x with
          | .addressing => (1 : Byte)
          | .waitReady _ => 2
          | .sending => 3
          | .waitAck _ => 4
          | .gap _ => 5] ++ presence 4 (some (bytes32 w.vector.cycle))) ++
    presence 4 (m.pendingVector.map (fun v => bytes32 v.cycle)) ++
    (m.boards.toList.map (fun x => [x.state.code] ++ bytes16 (BitVec.ofNat 16 x.faults))).flatten ++
    presence 14 (m.latest.map (fun r => bytes32 r.cycle ++ r.outcomes.toList.map BoardOutcome.code ++
      [r.ackMask, if r.skipped then 1 else 0])) := by
  unfold mirrorStatus
  cases m.activity with
  | idle => rfl
  | writing w x => cases x <;> rfl

theorem reportedPhase_eq (ports : Pair Port) (p q : PortId) : reportedPhase ports p q =
    if q = p then (1 : Byte) else match (ports.get q).activity with
      | .idle => (0 : Byte)
      | .command _ => 1
      | .executing _ => 2
      | .result _ _ => 3 := by
  unfold reportedPhase Port.phase
  by_cases h : q = p
  · rw [if_pos h, if_pos h.symm]
    rfl
  · rw [if_neg h, if_neg (Ne.symm h)]
    cases (ports.get q).activity <;> rfl

theorem slotStatus_eq (slots : Quad Slot) : slotStatus slots = fun l =>
    [if (slots.get l).enabled then (1 : Byte) else 0, (slots.get l).tag] ++
      bytes16 (BitVec.ofNat 16 (slots.get l).slopeCount) ++ bytes16 (BitVec.ofNat 16 (slopeBase slots l)) ++
      (slots.get l).policy.bytes ++ presence 6 ((slots.get l).heldPolicy.map SlotPolicy.bytes) ++
      [(slots.get l).state.code] ++ bytes16 (BitVec.ofNat 16 (slots.get l).age) ++
      [if (slots.get l).muted then (1 : Byte) else 0] ++ bytes16 (BitVec.ofNat 16 (slots.get l).cadence) := rfl

/-- Settles O39: the blocks of the status, the cycle record in it, and the codes. -/
theorem getStatusChangesNothing : Obligations.GetStatusChangesNothing := by
  intro s p h
  refine ⟨exec_ready (f := runCommand p .getStatus) h rfl, fun opt hnone hsome => ?_, fun r _ hp ha => r.words_laidOut hp ha, rfl, rfl, rfl, rfl, rfl, rfl, rfl,
    rfl, by decide, by decide, rfl, fun _ => rfl, bytes32_eq, bytes48_eq, Receiver.linkState_eq, ackMask_getLsbD⟩
  rw [eq_presence hnone hsome]
  have hports : portStatus s.ports p = [PortId.A, .B].map (fun q =>
      if q = p then (1 : Byte) else match (s.ports.get q).activity with
        | .idle => (0 : Byte)
        | .command _ => 1
        | .executing _ => 2
        | .result _ _ => 3) ++ bytes16 (BitVec.ofNat 16 (s.ports.get p).queue.length) ++
      bytes32 (s.ports.get p).lost := by
    unfold portStatus
    rw [reportedPhase_eq, reportedPhase_eq]
    rfl
  unfold statusData
  rw [configurationStatus_eq, mirrorStatus_eq, hports]
  simp only [loopStatus, cycleStatus, sensorStatus, slotStatus_eq, settingStatus, outputStatus, List.append_assoc]
  rfl

/-! ## READ COUNTERS (R61) -/

theorem counterData_eq (s : State) : counterData s = s.counterList.flatMap bytes32 := List.flatMap_def.symm

/-- Settles O40: the saturating counters, and the three kinds of READ COUNTERS. -/
theorem readCountersReturnsAndClears : Obligations.ReadCountersReturnsAndClears := by
  refine ⟨Counter.increase_spec, fun s p b h => ⟨exec_ready (f := runCommand p (.readCounters 0)) h rfl, fun h0 h1 => ?_,
    exec_ready (f := runCommand p (.readCounters 1)) h rfl, ?_⟩⟩
  · have hflag : readFlag b = none := by
      rw [readFlag, if_neg h0, if_neg h1]
    rw [exec_ready h rfl]
    simp only [runCommand, readCounters, hflag]
    rfl
  · rw [counterData_eq]
    simp only [State.counterList, MirrorCounters.toList, List.append_assoc]
    rfl

/-! ## A word of a LOAD (R162) -/

theorem storeWord_writeShadow {c : Stores} (hc : c.wf = true) (id : StoreId) (i k : Nat) (w : Word) :
    storeWord id ((writeShadow id i w c).get id) k = if k = i then w else storeWord id (c.get id) k := by
  have hcells : Cells.wf id.powerOn (c.get id) = true := by
    rw [Stores.wf_iff] at hc
    exact hc id
  rw [writeShadow, Stores.get_set_self]
  exact Cells.read_write _ _ hcells i k w

theorem writeShadow_get_ne (c : Stores) {id k : StoreId} (i : Nat) (w : Word) (h : k ≠ id) :
    (writeShadow id i w c).get k = c.get k := Stores.get_set_ne c _ h

/-- Settles O49: the word written, the words that stay, and the end of the LOAD. -/
theorem loadWordWriteWritesShadow : Obligations.LoadWordWriteWritesShadow := by
  refine ⟨rfl, fun _ => rfl, fun id c i => ?_, fun s j h hwf hload => ?_⟩
  · rw [storeWord, Cells.read_eq_find]
    cases id <;> rfl
  · have hshadow : s.stores.shadow.wf = true := by
      simp only [State.memoryWf, Bool.and_eq_true] at hwf
      exact hwf.1.1.1.2
    have hrun : exec .loadWordWrite s = .next (loadWordWrite s) := exec_running _ h
    have hwritten := fun k => storeWord_writeShadow hshadow j.store (j.first.toNat + j.written) k
      (j.words.getD j.written 0)
    have hothers := fun id => writeShadow_get_ne s.stores.shadow (id := j.store) (k := id) (j.first.toNat + j.written)
      (j.words.getD j.written 0)
    by_cases hmore : j.written + 1 < j.count
    · have hword : loadWordWrite s = s.onStores (fun c => { c with
          shadow := writeShadow j.store (j.first.toNat + j.written) (j.words.getD j.written 0) c.shadow
          load := .loading { j with written := j.written + 1 } }) := by
        simp only [loadWordWrite, hload, if_pos hmore]
      refine ⟨_, hrun.trans (congrArg Host.Outcome.next hword), ?_, fun i hi => ?_, fun id hid => hothers id hid, rfl, rfl,
        rfl, fun _ => ⟨rfl, rfl⟩, fun hle => ?_⟩
      · exact (hwritten _).trans (if_pos rfl)
      · exact (hwritten _).trans (if_neg hi)
      · omega
    · have hword : loadWordWrite s = (s.onStores (fun c => { c with
          shadow := writeShadow j.store (j.first.toNat + j.written) (j.words.getD j.written 0) c.shadow
          load := .idle })).complete j.port codeLoad
            ([BitVec.ofNat 8 j.store.number] ++ bytes32 j.first ++ count16 j.count) := by
        simp only [loadWordWrite, hload, if_neg hmore]
      refine ⟨_, hrun.trans (congrArg Host.Outcome.next hword), ?_, fun i hi => ?_, fun id hid => hothers id hid, rfl, rfl,
        rfl, fun hlt => absurd hlt hmore, fun _ => ⟨rfl, rfl⟩⟩
      · exact (hwritten _).trans (if_pos rfl)
      · exact (hwritten _).trans (if_neg hi)

end Sys2Proof.Machine

/-!
SUPPORT. The LOOP commands: at once, pending, refused, and the start of the loop.
-/
namespace Sys2Proof.Machine

/-! ## Requests of the loop (R31, R32) -/

/-- The rows of the LOOP commands with their targets. -/
def RequestTarget.Row (t : RequestTarget) (p : PortId) (c : Instr) : Prop :=
  (c = .loopClose p ∧ t = .close) ∨ (c = .loopFreeze p ∧ t = .freeze) ∨ (c = .loopOpen p ∧ t = .opn) ∨
    (c = .loopStop p ∧ t = .stop)

theorem exec_loopRequest {s : State} {p : PortId} {c : Instr} {t : RequestTarget} (h : s.portReady p)
    (hc : t.Row p c) : exec c s = .next (loopRequest t p s) := by
  rcases hc with ⟨rfl, rfl⟩ | ⟨rfl, rfl⟩ | ⟨rfl, rfl⟩ | ⟨rfl, rfl⟩ <;> exact exec_ready h rfl

theorem exec_loopStart {s : State} {p : PortId} (h : s.portReady p) :
    exec (.loopStart p) s = .next (loopStart p s) := exec_ready h rfl

theorem loopRequest_tripPending {s : State} (t : RequestTarget) (p : PortId) (h : s.loop.trip ≠ none) :
    loopRequest t p s = s.reject p codeLoop .tripPending :=
  if_pos (Option.isSome_iff_ne_none.mpr h)

theorem loopRequest_wrongState {s : State} {t : RequestTarget} (p : PortId) (h : s.loop.trip = none)
    (hv : t.validFrom s.loop.loop = false) : loopRequest t p s = s.reject p codeLoop .wrongState := by
  simp [loopRequest, h, hv]

theorem loopRequest_held {s : State} {t : RequestTarget} (p : PortId) (h : s.loop.trip = none)
    (hv : t.validFrom s.loop.loop = true) (ho : s.cycleIsOpen = true) : loopRequest t p s = holdRequest t p s := by
  simp [loopRequest, h, hv, ho]

theorem loopRequest_atOnce {s : State} {t : RequestTarget} (p : PortId) (h : s.loop.trip = none)
    (hv : t.validFrom s.loop.loop = true) (ho : s.cycleIsOpen = false) : loopRequest t p s = takeAtOnce t p s := by
  simp [loopRequest, h, hv, ho]

theorem validFrom_eq_true {t : RequestTarget} {x : LoopState} : t.validFrom x = true ↔
    (t = .close ∧ (x = .opened ∨ x = .frozen)) ∨ (t = .freeze ∧ x = .closed) ∨
      (t = .opn ∧ (x = .closed ∨ x = .frozen)) ∨ (t = .stop ∧ x ≠ .idle) := by
  cases t <;> simp [RequestTarget.validFrom]

theorem validFrom_eq_false {t : RequestTarget} {x : LoopState} : t.validFrom x = false ↔
    (t = .close ∧ (x = .idle ∨ x = .closed)) ∨ (t = .freeze ∧ x ≠ .closed) ∨
      (t = .opn ∧ (x = .idle ∨ x = .opened)) ∨ (t = .stop ∧ x = .idle) := by
  cases t <;> cases x <;> simp [RequestTarget.validFrom]

theorem withdrawRequest_none {s : State} (r : Reason) (q : Option PortId) (h : s.loop.request = none) :
    withdrawRequest r q s = s := by
  rw [withdrawRequest, h]

theorem withdrawRequest_some {s : State} {x : LoopRequest} (r : Reason) (q : Option PortId)
    (h : s.loop.request = some x) : withdrawRequest r q s =
      (s.onLoop (fun c => { c with request := none })).withdraw x.port codeLoop r
        (s.loop.loop.code :: (q.map portCode).toList) := by
  rw [withdrawRequest, h]

/-- Settles O53: refused with a trip pending or from the wrong state, held while a cycle is open. -/
theorem loopRequestsPendingOrRefused : Obligations.LoopRequestsPendingOrRefused := by
  intro s p c tg h hc
  refine ⟨fun htrip => ⟨?_, ?_⟩, fun htrip hwrong => ?_, fun htrip ho hvalid => ⟨fun hreq => ?_, fun r hreq hother => ?_⟩⟩
  · rw [exec_loopRequest h hc, loopRequest_tripPending tg p htrip]
    rfl
  · rw [exec_loopStart h, loopStart, if_pos (Option.isSome_iff_ne_none.mpr htrip)]
    rfl
  · rw [exec_loopRequest h hc, loopRequest_wrongState p htrip (validFrom_eq_false.mpr hwrong)]
    rfl
  · rw [exec_loopRequest h hc, loopRequest_held p htrip (validFrom_eq_true.mpr hvalid) ho, holdRequest,
      withdrawRequest_none _ _ hreq]
    rfl
  · rw [exec_loopRequest h hc, loopRequest_held p htrip (validFrom_eq_true.mpr hvalid) ho, holdRequest,
      withdrawRequest_some _ _ hreq, hother]
    cases p <;> rfl

/-- A request taken, with no other pending. -/
theorem takeRequest_eq {s : State} (t : RequestTarget) (p : PortId) (h : s.loop.request = none) : takeRequest t p s =
    (({ s with
        loop := { s.loop with loop := t.loopState }
        command := { s.command with u := t.integrator s.command.u } } : State).post
      (.loopChange s.loop.loop t.loopState (.request p))).complete p codeLoop
      (loopData s.loop.loop t.loopState s.manager.cycle) := by
  have hloop : ({ s.loop with loop := t.loopState, request := none } : LoopController) =
      { s.loop with loop := t.loopState } := by rw [← h]
  rw [← hloop]
  rfl

theorem flush_eq (r : Receiver) : r.flush = { r with
    fifo := []
    flow := .go
    reception :=
      (match r.reception with
        | .storing f => .discarding { f with slopes := [] }
        | x => x)
    counters := { r.counters with
      dropped := r.fifo.foldl (fun n _ => Counter.increase n) r.counters.dropped } } := by
  unfold Receiver.flush Reception.toDiscarding
  cases r.reception <;> rfl

theorem managerToIdle_eq (s : State) : managerToIdle s = s.onManager (fun m => { m with
    state := .idle
    lineDelay := none
    period := none
    deadline := none
    fallback := none
    latch := none
    counters := { m.counters with
      droppedTriggers :=
        if m.latch = none then m.counters.droppedTriggers else Counter.increase m.counters.droppedTriggers } }) := by
  rw [managerToIdle, dropLatch_eq]
  rfl

theorem flushReceivers_eq (s : State) : flushReceivers s = { s with
    receivers := s.receivers.map (fun r => { r with
      fifo := []
      flow := .go
      reception :=
        (match r.reception with
          | .storing f => .discarding { f with slopes := [] }
          | x => x)
      counters := { r.counters with
        dropped := r.fifo.foldl (fun n _ => Counter.increase n) r.counters.dropped } }) } := by
  unfold flushReceivers
  rw [funext flush_eq]

/-- A request taken at once in ARMED. -/
theorem exec_atOnce {s : State} {p : PortId} {c : Instr} {t : RequestTarget} (h : s.portReady p)
    (ha : s.manager.state = .armed) (htrip : s.loop.trip = none) (hc : t.Row p c)
    (hv : t.validFrom s.loop.loop = true) : exec c s = .next (takeAtOnce t p s) := by
  rw [exec_loopRequest h hc, loopRequest_atOnce p htrip hv (by simp [State.cycleIsOpen, ha])]

/-- Settles O52: the four requests taken at once. -/
theorem loopRequestsAtOnce : Obligations.LoopRequestsAtOnce := by
  intro s p h ha htrip hreq
  refine ⟨fun hl => ?_, fun hl => ?_, fun hl => ?_, fun hl => ?_⟩
  · rw [exec_atOnce (t := .close) h ha htrip (.inl ⟨rfl, rfl⟩) (validFrom_eq_true.mpr (.inl ⟨rfl, hl⟩)), takeAtOnce,
      takeRequest_eq _ _ hreq]
    rfl
  · rw [exec_atOnce (t := .freeze) h ha htrip (.inr (.inl ⟨rfl, rfl⟩))
      (validFrom_eq_true.mpr (.inr (.inl ⟨rfl, hl⟩))), takeAtOnce, takeRequest_eq _ _ hreq, hl]
    rfl
  · rw [exec_atOnce (t := .opn) h ha htrip (.inr (.inr (.inl ⟨rfl, rfl⟩)))
      (validFrom_eq_true.mpr (.inr (.inr (.inl ⟨rfl, hl⟩)))), takeAtOnce, takeRequest_eq _ _ hreq]
    rfl
  · rw [exec_atOnce (t := .stop) h ha htrip (.inr (.inr (.inr ⟨rfl, rfl⟩)))
      (validFrom_eq_true.mpr (.inr (.inr (.inr ⟨rfl, hl⟩)))), takeAtOnce, takeRequest_eq _ _ hreq]
    simp only [if_true, stopCycles, managerToIdle_eq, flushReceivers_eq]
    rfl

/-! ## ARMED is entered (R12) -/

theorem enterArmed_latched {s : State} {c : LatchedCause} (h : s.manager.latch = some c) : enterArmed s =
    openCycle c.openCause true ((s.onManager (fun m => { m with state := .armed, latch := none })).onManagerCounters
      (fun c => { c with lateStarts := Counter.increase c.lateStarts })) := by
  rw [enterArmed, h]

theorem enterArmed_lead {s : State} (h : s.manager.latch = none)
    (hl : leadCondition (s.onManager (fun m => { m with state := .armed })) = true) : enterArmed s =
      openCycle .lead false (s.onManager (fun m => { m with state := .armed })) := by
  rw [enterArmed, h]
  have hmode := (leadCondition_eq_true.mp hl).1
  exact (if_pos hmode).trans (if_pos hl)

/-- Entering ARMED with no trigger latched and no lead frame starts the fallback of LEAD. -/
theorem enterArmed_waits {s : State} (h : s.manager.latch = none)
    (hl : s.manager.settings.mode ≠ .lead ∨ (s.slots.get s.manager.settings.leadSlot).muted = true ∨
      (s.receivers.get s.manager.settings.leadSlot).fifo = []) : enterArmed s =
      s.onManager (fun m => { m with
        state := .armed
        fallback :=
          if m.settings.mode = .lead ∧ m.settings.fallback ≠ 0 then some m.settings.fallback else m.fallback }) := by
  rw [enterArmed, h]
  by_cases hmode : s.manager.settings.mode = .lead
  · have hcond : leadCondition (s.onManager (fun m => { m with state := .armed })) = false := by
      refine leadCondition_eq_false.mpr ?_
      rcases hl with hl | hl
      · exact absurd hmode hl
      · exact .inr (.inr hl)
    refine ((if_pos hmode).trans (if_neg (by simp [hcond]))).trans ?_
    rw [startFallback_eq]
    by_cases h0 : s.manager.settings.fallback = 0 <;>
      simp only [State.onManager, hmode, h0, if_true, if_false, ne_eq, not_true_eq_false, not_false_eq_true, and_false,
        and_true]
  · refine (if_neg hmode).trans ?_
    simp [State.onManager, hmode]

theorem startPeriod_eq {s : State} (h : s.manager.state ≠ .idle) : startPeriod s = s.onManager (fun m => { m with
    period := if m.settings.mode = .timer then some m.settings.period else m.period }) := by
  unfold startPeriod
  by_cases hmode : s.manager.settings.mode = .timer
  · rw [if_pos ⟨hmode, h⟩]
    simp [State.onManager, hmode, Timer.start]
  · rw [if_neg (fun hc => hmode hc.1)]
    exact (onManager_eq_self (by simp [hmode])).symm

/-! ## The loop starts (R33) -/

theorem startSlot_slots (l k : LinkId) (s : State) : (startSlot l s).slots.get k =
    if k = l then { s.slots.get k with
      age := 0
      cadence := (s.slots.get k).policy.phase
      state := (s.slots.get k).startState }
    else s.slots.get k := by
  have hslots : (startSlot l s).slots = quadModify s.slots l (fun x => { x with
      age := 0, cadence := x.policy.phase, state := x.startState }) := by
    unfold startSlot
    dsimp only
    split <;> rfl
  rw [hslots, quadModify_get]

theorem startSlots_get (k : LinkId) (s : State) : (forLinks startSlot links s).slots.get k =
    { s.slots.get k with
      age := 0
      cadence := (s.slots.get k).policy.phase
      state := (s.slots.get k).startState } :=
  forLinks_local (fun s => s.slots.get k) k startSlot
    (fun x => { x with age := 0, cadence := x.policy.phase, state := x.startState })
    (fun l s h => by simp only [startSlot_slots, if_neg (Ne.symm h)])
    (fun s => by simp only [startSlot_slots, if_true]) s

theorem startSlots_loop (s : State) : (forLinks startSlot links s).loop = s.loop :=
  forLinks_keeps State.loop _ (fun l s => by unfold startSlot; dsimp only; split <;> rfl) links s

/-- The state as the loop starts, before its blocks are started. -/
def startingLoop (p : PortId) (s : State) : State :=
  ((s.onLoop (fun c => { c with loop := .opened, request := none })).onManager Manager.clear).post
    (.loopChange s.loop.loop .opened (.request p))

theorem startedBlocks_eq (p : PortId) (s : State) :
    startedBlocks p s = startBlocks (forLinks startSlot links (startingLoop p s)) := rfl

/-- ARMED as START enters it: the blocks started, the result given and the period started. -/
def startedState (p : PortId) (s : State) : State :=
  ((startedBlocks p s).complete p codeLoop (loopData s.loop.loop .opened 0)).onManager (fun m => { m with
    state := .armed
    period := if m.settings.mode = .timer then some m.settings.period else m.period })

theorem takeStart_eq_enterArmed (p : PortId) (s : State) : takeStart p s = enterArmed (startedState p s) := by
  rw [takeStart_eq, startPeriod_eq (by simp), startedState]
  generalize startedBlocks p s = u
  rfl

theorem startedState_manager (p : PortId) (s : State) : (startedState p s).manager =
    { s.manager.clear with
      state := .armed
      period := if s.manager.settings.mode = .timer then some s.manager.settings.period else s.manager.period } := by
  obtain ⟨-, -, -, hmanager, -⟩ := startSlots_keeps links (startingLoop p s)
  rw [startedState, startedBlocks_eq]
  generalize forLinks startSlot links (startingLoop p s) = u at hmanager
  show ({ u.manager with
    state := .armed
    period := if u.manager.settings.mode = .timer then some u.manager.settings.period else u.manager.period } :
      Manager) = _
  rw [hmanager]
  rfl

theorem startedState_loop (p : PortId) (s : State) :
    (startedState p s).loop = { s.loop with loop := .opened, request := none } := by
  have hloop := startSlots_loop (startingLoop p s)
  rw [startedState, startedBlocks_eq]
  generalize forLinks startSlot links (startingLoop p s) = u at hloop
  exact hloop

theorem startedState_slots (p : PortId) (s : State) (l : LinkId) : (startedState p s).slots.get l =
    { s.slots.get l with
      age := 0
      cadence := (s.slots.get l).policy.phase
      state := (s.slots.get l).startState } := by
  have hslot := startSlots_get l (startingLoop p s)
  rw [startedState, startedBlocks_eq]
  generalize forLinks startSlot links (startingLoop p s) = u at hslot
  exact hslot

/-- The blocks that START does not reset, and what it leaves of the others. -/
theorem startedState_keeps (p : PortId) (s : State) : (startedState p s).receivers = s.receivers ∧
    (startedState p s).stores = s.stores ∧ (startedState p s).mirror = s.mirror ∧
    (startedState p s).engine = s.engine.start ∧ (startedState p s).command = { s.command with u := [] } ∧
    (startedState p s).probe = { s.probe with position := 0 } ∧
    (startedState p s).capture = { s.capture with position := 0 } ∧
    (startedState p s).offload = s.offload.clearWindow := by
  obtain ⟨-, -, -, -, hreceivers, hengine, hstores, hcommand, hprobe, hmirror, hcapture, hoffload⟩ :=
    startSlots_keeps links (startingLoop p s)
  rw [startedState, startedBlocks_eq]
  generalize forLinks startSlot links (startingLoop p s) = u at *
  exact ⟨hreceivers, hstores, hmirror, congrArg Engine.start hengine,
    congrArg (fun c : CommandUnit => { c with u := [] }) hcommand,
    congrArg (fun g : ProbeGenerator => { g with position := 0 }) hprobe,
    congrArg (fun c : CaptureUnit => { c with position := 0 }) hcapture, congrArg OffloadUnit.clearWindow hoffload⟩

theorem startedState_activity (p : PortId) (s : State) : ((startedState p s).ports.get p).activity =
    .result { code := 0x30, cls := .complete, reason := .none, data := loopData s.loop.loop .opened 0 } 0 := by
  rw [startedState, State.onManager_ports, State.complete_ports, Pair.get_set_self]
  rfl

/-- The events that START posts. -/
theorem startedState_events {s posted : State} {p : PortId} (hl : s.loop.loop = .idle)
    (hposted : posted = [(0 : LinkId), 1, 2, 3].foldl (fun u l =>
      if (s.slots.get l).state = (s.slots.get l).startState then u
      else u.post (.slotChange l (s.slots.get l).startState))
      (({ s with manager := { s.manager with cycle := 0 } } : State).post (.loopChange .idle .opened (.request p))))
    (q : PortId) : ((startedState p s).ports.get q).queue = (posted.ports.get q).queue ∧
      ((startedState p s).ports.get q).lost = (posted.ports.get q).lost := by
  have hstart : SameEvents (({ s with manager := { s.manager with cycle := 0 } } : State).post
      (.loopChange .idle .opened (.request p))) (startingLoop p s) := by
    rw [startingLoop, hl]
    exact SameEvents.post _ (.of rfl rfl rfl)
  have hslots := startSlots_events s links (startingLoop p s) _ (by decide) (fun _ _ => rfl) hstart
  have hblocks : ∀ u, SameEvents u (startBlocks u) := fun u => .of rfl rfl rfl
  have hanswer := fun u => SameEvents.answer (s := startBlocks u) p
    { code := codeLoop, cls := .complete, reason := .none, data := loopData s.loop.loop .opened 0 }
  rw [startedState, startedBlocks_eq]
  subst hposted
  have hevents := (hslots.trans (hblocks _)).trans (hanswer _)
  generalize forLinks startSlot links (startingLoop p s) = u at hevents
  exact hevents.1 q

theorem loopStart_wrongState {s : State} (p : PortId) (ht : s.loop.trip = none) (hl : s.loop.loop ≠ .idle) :
    loopStart p s = s.reject p codeLoop .wrongState := by
  simp [loopStart, ht, hl]

theorem startable_eq_true {s : State} : startable s = true ↔ (∃ l, (s.slots.get l).enabled = true) ∧
    (s.manager.settings.mode = .lead → (s.slots.get s.manager.settings.leadSlot).enabled = true) := by
  have hany : links.any (fun l => (s.slots.get l).enabled) = true ↔ ∃ l, (s.slots.get l).enabled = true := by
    simp only [List.any_eq_true, mem_links, true_and]
  rw [startable, Bool.and_eq_true, hany]
  refine and_congr_right fun _ => ?_
  by_cases hm : s.manager.settings.mode = .lead <;> simp [hm]

theorem loopStart_notConfigured {s : State} (p : PortId) (ht : s.loop.trip = none) (hl : s.loop.loop = .idle)
    (hs : startable s = false) : loopStart p s = s.reject p codeLoop .notConfigured := by
  simp [loopStart, ht, hl, hs]

theorem loopStart_starts {s : State} (p : PortId) (ht : s.loop.trip = none) (hl : s.loop.loop = .idle)
    (hs : startable s = true) : loopStart p s = enterArmed (startedState p s) := by
  rw [← takeStart_eq_enterArmed]
  simp [loopStart, ht, hl, hs]

/-- Settles O54: refused, started into ARMED, or started with a cycle opened by the lead frame. -/
theorem loopStartArmsLoop : Obligations.LoopStartArmsLoop := by
  intro s posted p h htrip hposted
  refine ⟨fun hl => ?_, fun hl hnone => ?_, fun hl hany hlead hunmet => ?_, fun hl hmode hen hmuted hfifo => ?_⟩
  · rw [exec_loopStart h, loopStart_wrongState p htrip hl]
    rfl
  · have hs : startable s = false := by
      rw [← Bool.not_eq_true, startable_eq_true]
      rintro ⟨⟨l, hen⟩, hlead⟩
      rcases hnone with hnone | ⟨hmode, hdis⟩
      · simp [hnone l] at hen
      · simp [hlead hmode] at hdis
    rw [exec_loopStart h, loopStart_notConfigured p htrip hl hs]
    rfl
  · have hmanager := startedState_manager p s
    obtain ⟨hreceivers, hstores, hmirror, hengine, hcommand, hprobe, hcapture, hoffload⟩ := startedState_keeps p s
    have harmed : loopStart p s = (startedState p s).onManager (fun m => { m with
        state := .armed
        fallback :=
          if m.settings.mode = .lead ∧ m.settings.fallback ≠ 0 then some m.settings.fallback else m.fallback }) := by
      rw [loopStart_starts p htrip hl (startable_eq_true.mpr ⟨hany, hlead⟩)]
      refine enterArmed_waits (by rw [hmanager]; rfl) ?_
      rw [hmanager, hreceivers, startedState_slots]
      exact hunmet
    have hloop := startedState_loop p s
    have hslots := startedState_slots p s
    have hactivity := startedState_activity p s
    have hevents := startedState_events (p := p) hl hposted
    have hrun := (exec_loopStart h).trans (congrArg Host.Outcome.next harmed)
    generalize startedState p s = w at *
    refine ⟨_, hrun, hloop, ?_, hslots, fun l a => ?_, ?_, fun a => ?_, ?_, ?_, ?_, ?_, ?_, ?_, hevents, hstores, hmirror,
      hreceivers⟩
    · rw [State.onManager_manager, hmanager]
      rfl
    · rw [State.onManager_engine, hengine]
      exact ⟨by simp [Engine.start], by simp [Engine.start]⟩
    · rw [State.onManager_engine, hengine]
      rfl
    · rw [State.onManager_command, hcommand]
      rfl
    · rw [State.onManager_command, hcommand]
    · rw [State.onManager_probe, hprobe]
    · rw [State.onManager_capture, hcapture]
    · rw [State.onManager_offload, hoffload]
      rfl
    · rw [State.onManager_offload, hoffload]
      rfl
    · rw [State.onManager_ports, hactivity, hl]
      rfl
  · have hmanager := startedState_manager p s
    obtain ⟨hreceivers, -⟩ := startedState_keeps p s
    have hslots := startedState_slots p s
    have hwloop := startedState_loop p s
    have hactivity := startedState_activity p s
    have hevents := startedState_events (p := p) hl hposted
    have hrun := (exec_loopStart h).trans (congrArg Host.Outcome.next
      (loopStart_starts p htrip hl (startable_eq_true.mpr ⟨⟨_, hen⟩, fun _ => hen⟩)))
    generalize startedState p s = w at *
    have hlatch : w.manager.latch = none := by rw [hmanager]; rfl
    have hcond : leadCondition (w.onManager (fun m => { m with state := .armed })) = true := by
      refine leadCondition_eq_true.mpr ⟨?_, rfl, ?_, ?_⟩
      · simp only [State.onManager_manager, hmanager]
        exact hmode
      · simp only [State.onManager_manager, State.onManager_slots, hmanager, hslots]
        exact hmuted
      · simp only [State.onManager_manager, State.onManager_receivers, hmanager, hreceivers]
        exact hfifo
    rw [enterArmed_lead hlatch hcond] at hrun
    have hlead : ExpectedNow (w.onManager (fun m => { m with state := .armed })) s.manager.settings.leadSlot := by
      simp only [ExpectedNow, State.onManager_manager, State.onManager_slots, hmanager, hslots]
      exact ⟨hen, hmuted, .inr ⟨hmode, rfl⟩⟩
    have hv : (w.onManager (fun m => { m with state := .armed })).manager.cycle = 0 ∧
        (w.onManager (fun m => { m with state := .armed })).manager.settings = s.manager.settings ∧
        (w.onManager (fun m => { m with state := .armed })).manager.timebase = s.manager.timebase ∧
        (w.onManager (fun m => { m with state := .armed })).manager.lastRecord = none := by
      simp only [State.onManager_manager, hmanager]
      exact ⟨rfl, rfl, rfl, rfl⟩
    obtain ⟨hcycle, hsettings, htime, hlast⟩ := hv
    have hvports : (w.onManager (fun m => { m with state := .armed })).ports = w.ports := rfl
    have hvloop : (w.onManager (fun m => { m with state := .armed })).loop = { s.loop with loop := .opened, request := none } := hwloop
    generalize w.onManager (fun m => { m with state := .armed }) = v at *
    obtain ⟨o, ho, hopened, -, -, -, hloop, hports, -, htm, hexpected, -⟩ := openCycle_spec .lead false v
    obtain ⟨hstate, hdeadline, -⟩ := hexpected ⟨_, hlead⟩
    refine ⟨_, o, hrun, hloop.trans hvloop, hstate, ?_, ho, ?_, ?_, ?_, ?_, ?_, ?_, ?_, ?_, ?_, fun q => ?_⟩
    · rw [htm, hcycle]
      rfl
    · rw [htm]
      exact hlast
    · rw [hopened, newRecord, hcycle]
      rfl
    · rw [hopened]
      rfl
    · rw [hopened]
      rfl
    · rw [hopened, newRecord, hvloop]
    · rw [hopened]
      exact htime
    · rw [hdeadline, hsettings]
    · rw [htm]
    · rw [hports, hvports, hactivity, hl]
      rfl
    · rw [hports, hvports]
      exact hevents q

end Sys2Proof.Machine

/-!
SUPPORT. RESET PART: the held settings taken in IDLE, the other port, and every block.
-/
namespace Sys2Proof.Machine

/-! ## The held timing settings in IDLE -/

/-- In IDLE a measurement started anew changes only the timing line, and not its raw level. -/
theorem startMeasuring_idle {s : State} (h : s.manager.state = .idle) :
    ∃ line, startMeasuring s = { s with line := line } ∧ line.raw = s.line.raw := by
  by_cases hl : s.line.raw = s.line.filtered
  · exact ⟨_, startMeasuring_of_level hl, rfl⟩
  · by_cases hf : s.manager.settings.filter = .off
    · exact ⟨_, (startMeasuring_of_off hl hf).trans (filterTakes_ignored (.inr h)), rfl⟩
    · exact ⟨_, startMeasuring_of_filter hl hf, rfl⟩

theorem changeFilter_idle {s : State} (old : TimingSettings) (h : s.manager.state = .idle) :
    ∃ line, changeFilter old s = { s with line := line } ∧ line.raw = s.line.raw := by
  unfold changeFilter
  split
  · exact startMeasuring_idle h
  · exact ⟨s.line, rfl, rfl⟩

/-- The manager after RESET PART (R62). -/
def Manager.afterReset (m : Manager) : Manager :=
  { m with
    state := .idle
    settings := m.held.getD m.settings
    held := none
    latch := none
    lineDelay := none
    period := none
    deadline := none
    fallback := none
    openRecord := none
    counters := { m.counters with
      droppedTriggers :=
        if m.latch = none then m.counters.droppedTriggers else Counter.increase m.counters.droppedTriggers } }

/-- The manager in IDLE with no open record, before the held timing settings are taken. -/
def Manager.stopped (m : Manager) : Manager := { m.afterReset with settings := m.settings, held := m.held }

theorem softResetManager_eq (s : State) : softResetManager s = takeHeldTiming (s.onManager Manager.stopped) := by
  rw [softResetManager, managerToIdle_eq]
  rfl

/-- The timing line keeps its measurement when the held settings change neither filter nor edge. -/
def State.keepsMeasuring (s : State) : Prop :=
  s.manager.held = none ∨ s.line.measuring = none ∨
    ∃ x, s.manager.held = some x ∧ x.filter = s.manager.settings.filter ∧ x.edge = s.manager.settings.edge

theorem softResetManager_spec (s : State) : ∃ line,
    softResetManager s = { s with manager := s.manager.afterReset, line := line } ∧ line.raw = s.line.raw ∧
      (s.keepsMeasuring → line = s.line) := by
  rw [softResetManager_eq, takeHeldTiming]
  cases hheld : s.manager.held with
  | none =>
    have hstopped : (s.onManager Manager.stopped).manager.held = none := hheld
    rw [hstopped]
    refine ⟨s.line, ?_, rfl, fun _ => rfl⟩
    simp [State.onManager, Manager.stopped, Manager.afterReset, hheld]
  | some x =>
    have hstopped : (s.onManager Manager.stopped).manager.held = some x := hheld
    rw [hstopped]
    dsimp only
    rw [applyTiming_eq, changeMode_idle _ rfl rfl rfl rfl rfl]
    have hmanager : ((s.onManager Manager.stopped).onManager (Manager.withTiming x)) =
        s.onManager Manager.afterReset := by
      simp [State.onManager, Manager.stopped, Manager.afterReset, Manager.withTiming, hheld]
    rw [hmanager]
    by_cases hquiet : s.line.measuring = none ∨ (x.filter = s.manager.settings.filter ∧ x.edge = s.manager.settings.edge)
    · have hfilter : changeFilter s.manager.settings (s.onManager Manager.afterReset) =
          s.onManager Manager.afterReset := by
        refine changeFilter_quiet ?_
        simpa [Manager.afterReset, hheld] using hquiet
      refine ⟨s.line, ?_, rfl, fun _ => rfl⟩
      exact (congrArg leadInForce hfilter).trans (leadInForce_unarmed (.inr (by simp [Manager.afterReset])))
    · obtain ⟨line, hfilter, hraw⟩ := changeFilter_idle (s := s.onManager Manager.afterReset) s.manager.settings rfl
      refine ⟨line, ?_, hraw, fun hkeeps => absurd ?_ hquiet⟩
      · exact (congrArg leadInForce hfilter).trans (leadInForce_unarmed (.inr (by simp [Manager.afterReset])))
      · rcases hkeeps with h | h | ⟨y, hy, h⟩
        · simp [hheld] at h
        · exact .inl h
        · rw [hheld] at hy
          cases hy
          exact .inr h

/-! ## The other port -/

theorem resetOtherPort_others (q : PortId) (s : State) :
    resetOtherPort q s = { s with ports := (resetOtherPort q s).ports } ∧
      (resetOtherPort q s).ports.get q.other = s.ports.get q.other := by
  unfold resetOtherPort
  split
  · exact ⟨rfl, rfl⟩
  · exact ⟨rfl, Pair.get_set_other _ _ _⟩
  · exact ⟨rfl, Pair.get_set_other _ _ _⟩
  · exact ⟨rfl, rfl⟩

theorem resetOtherPort_quiet {q : PortId} {s : State} (h : (s.ports.get q).activity = .idle ∨
    ∃ r n, (s.ports.get q).activity = .result r n) : resetOtherPort q s = s := by
  unfold resetOtherPort
  rcases h with h | ⟨r, n, h⟩ <;> rw [h]

/-- A port with its queue emptied and one event in it. -/
def Port.withOnly (ev : EventRecord) (x : Port) : Port := { x with queue := [ev], lost := 0 }

theorem takeEvent_clearQueue (ev : EventRecord) (x : Port) : x.clearQueue.takeEvent ev = x.withOnly ev := rfl

/-- The event that RESET PART posts. -/
def resetEvent (p : PortId) (s : State) : EventRecord :=
  { subject := .loopChange s.loop.loop .idle (.reset p), cycle := s.manager.cycle, time := s.manager.timebase }

/-- What RESET PART leaves of the state and of the ports. -/
theorem resetPart_spec (p : PortId) (s : State) : ∃ line, line.raw = s.line.raw ∧ (s.keepsMeasuring → line = s.line) ∧
    resetPart p s = { softResetBlocks { s with manager := s.manager.afterReset, line := line } with
      ports := (resetPart p s).ports } ∧
    (resetPart p s).ports.get p = { (s.ports.get p).withOnly (resetEvent p s) with
      activity := .result { code := codeResetPart, cls := .complete, reason := .none,
                            data := [(s.ports.get p.other).phase.code, (s.ports.get p.other).phase.resetEffect] } 0 } ∧
    (resetPart p s).ports.get p.other =
      ((resetOtherPort p.other s).ports.get p.other).withOnly (resetEvent p s) := by
  obtain ⟨hothers, hsame⟩ := resetOtherPort_others p.other s
  rw [PortId.other_other] at hsame
  generalize hports : (resetOtherPort p.other s).ports = ports at hothers hsame
  obtain ⟨line, hreset, hraw, hline⟩ := softResetManager_spec
    { (resetOtherPort p.other s) with ports := (resetOtherPort p.other s).ports.map Port.clearQueue }
  rw [hothers] at hreset hraw hline
  refine ⟨line, hraw, hline, ?_, ?_, ?_⟩
  · unfold resetPart
    rw [hothers]
    dsimp only at hreset ⊢
    rw [hreset]
    rfl
  · unfold resetPart
    rw [hothers]
    dsimp only at hreset ⊢
    rw [hreset, State.complete_ports, Pair.get_set_self, State.post_ports, ← hsame]
    simp only [softResetBlocks, Pair.get_map, takeEvent_clearQueue]
    rfl
  · unfold resetPart
    rw [hothers]
    dsimp only at hreset ⊢
    rw [hreset, State.complete_ports, Pair.get_set_other, State.post_ports]
    simp only [softResetBlocks, Pair.get_map, takeEvent_clearQueue]
    rfl

/-! ## The blocks that take their held settings -/

theorem MirrorLink.softReset_eq (m : MirrorLink) : m.softReset = { m with
    activity := .idle
    pendingVector := none
    line := []
    settings := m.held.getD m.settings
    held := none } := by
  unfold MirrorLink.softReset MirrorLink.takeHeld
  cases h : m.held <;> simp [h]

theorem CaptureUnit.softReset_eq (c : CaptureUnit) : c.softReset = { c with
    fifo := []
    sender := .idle
    position := 0
    settings := c.held.getD c.settings
    held := none } := by
  unfold CaptureUnit.softReset CaptureUnit.takeHeld
  cases h : c.held <;> simp [h, CaptureUnit.withSettings]

theorem OffloadUnit.softReset_eq (o : OffloadUnit) : o.softReset = { o with
    mailbox := none
    fresh := false
    count := 0
    accumulators := ⟨0, 0, 0, 0⟩
    settings := o.held.getD o.settings
    held := none } := by
  unfold OffloadUnit.softReset OffloadUnit.takeHeld
  cases h : o.held <;> simp [h, OffloadUnit.withSettings, OffloadUnit.clearWindow, Quad.fill]

theorem ProbeGenerator.softReset_eq (g : ProbeGenerator) :
    g.softReset = { mode := g.held.getD g.mode, held := none, position := 0 } := by
  unfold ProbeGenerator.softReset ProbeGenerator.takeHeld
  cases h : g.held <;> simp [h, ProbeGenerator.withMode]

theorem Slot.softReset_eq (x : Slot) : x.softReset = { x with
    policy := x.heldPolicy.getD x.policy
    heldPolicy := none
    muted := false
    age := 0
    cadence := (x.heldPolicy.getD x.policy).phase
    state := if x.enabled then .active else .disabled } := by
  unfold Slot.softReset Slot.takeHeld
  cases h : x.heldPolicy <;> simp [h, Slot.withPolicy] <;> exact if_congr Iff.rfl rfl rfl

/-- Settles O55: the other port by its phase, then every block. -/
theorem resetPartResetsEveryBlock : Obligations.ResetPartResetsEveryBlock := by
  intro s p h
  obtain ⟨line, hraw, hline, hstate, hown, hother⟩ := resetPart_spec p s
  have hphase : [(s.ports.get p.other).phase.code, (s.ports.get p.other).phase.resetEffect] =
      (match (s.ports.get p.other).activity with
        | .idle => [0, 0]
        | .command _ => [1, 1]
        | .executing _ => [2, 2]
        | .result _ _ => [3, 3]) := by
    unfold Port.phase
    cases (s.ports.get p.other).activity <;> rfl
  have hwithdrawn : ∀ c, (s.ports.get p.other).activity = .executing c →
      (resetPart p s).ports.get p.other = { (s.ports.get p.other).withOnly (resetEvent p s) with
        activity := .result { code := c.code, cls := .withdrawn, reason := .reset, data := withdrawnData c s } 0 } := by
    intro c hc
    rw [hother, resetOtherPort, hc]
    simp only [State.withdraw_ports, Pair.get_set_self]
    rfl
  rw [hphase] at hown
  generalize hports : (resetPart p s).ports = ports at *
  refine ⟨_, resetEvent p s, exec_ready (f := runCommand p .resetPart) h rfl, rfl, ?_⟩
  rw [show runCommand p .resetPart s = resetPart p s from rfl, hstate]
  refine ⟨hown, fun ha => ?_, fun r ha => ?_, fun r n ha => ?_, fun ha => ?_, fun ha => ?_, fun j ha hj => ?_, rfl, rfl,
    hraw, hline, fun l => ?_, fun l => ?_, rfl, rfl, fun l => ?_, fun l a => ?_, fun j => rfl, fun a => rfl, rfl, rfl, ?_,
    ?_, ?_, ?_, rfl, rfl⟩
  · dsimp only
    rw [hother, resetOtherPort_quiet (.inl ha)]
    rfl
  · dsimp only
    rw [hother, resetOtherPort, ha]
    simp only [State.onPort_ports, Pair.get_set_self]
    rfl
  · dsimp only
    rw [hother, resetOtherPort_quiet (.inr ⟨r, n, ha⟩)]
    rfl
  · exact hwithdrawn .apply ha
  · exact hwithdrawn .loop ha
  · refine (hwithdrawn .load ha).trans ?_
    simp only [withdrawnData, StoreController.written, hj]
    rfl
  · simp only [softResetBlocks, Quad.get_map]
    rfl
  · simp only [softResetBlocks, Quad.get_map]
    exact Slot.softReset_eq _
  · simp [softResetBlocks, Engine.powerOn]
  · simp [softResetBlocks, Engine.powerOn]
  · exact ProbeGenerator.softReset_eq _
  · exact MirrorLink.softReset_eq _
  · exact CaptureUnit.softReset_eq _
  · exact OffloadUnit.softReset_eq _

end Sys2Proof.Machine

/-!
SUPPORT. The reception of symbols: the decoder, the header of a frame and its body.
-/
namespace Sys2Proof.Machine

/-! ## Symbols outside lock (R14) -/

/-- The symbols of a link with their commands. -/
theorem exec_symbol {s : State} {l : LinkId} {c : Instr} {sym : LinkSymbol} (h : s.resetActs = false)
    (hc : whenRunning c = linkSymbol l sym) : exec c s = .next (linkSymbol l sym s) := by
  rw [exec_running c h, hc]

theorem linkSymbol_unlocked_invalid {s : State} {l : LinkId} {n : Nat}
    (hd : (s.receivers.get l).decoder = .unlocked n) :
    linkSymbol l .invalid s = s.onReceiver l (fun r => { r with decoder := .unlocked 0 }) := by
  rw [linkSymbol, hd]
  rfl

theorem linkSymbol_unlocked_counts {s : State} {l : LinkId} {n : Nat} {sym : LinkSymbol}
    (hd : (s.receivers.get l).decoder = .unlocked n) (hs : sym.isInvalid = false) (hn : n + 1 < 64) :
    linkSymbol l sym s = s.onReceiver l (fun r => { r with decoder := .unlocked (n + 1) }) := by
  rw [linkSymbol, hd]
  exact (if_neg (by simp [hs])).trans (if_pos hn)

theorem linkSymbol_unlocked_locks {s : State} {l : LinkId} {n : Nat} {sym : LinkSymbol}
    (hd : (s.receivers.get l).decoder = .unlocked n) (hs : sym.isInvalid = false) (hn : 64 ≤ n + 1) :
    linkSymbol l sym s = declareLock l s := by
  rw [linkSymbol, hd]
  exact (if_neg (by simp [hs])).trans (if_neg (by rw [Config.lockSymbols]; omega))

theorem takeEvent_queues {x : Port} (e : EventRecord) (h : x.queue.length < 16) :
    x.takeEvent e = { x with queue := x.queue ++ [e] } := if_pos h

theorem takeEvent_loses {x : Port} (e : EventRecord) (h : 16 ≤ x.queue.length) :
    x.takeEvent e = { x with lost := Counter.increase x.lost } := if_neg (Nat.not_lt.mpr h)

theorem Counter.increase_eq (c : Counter) :
    Counter.increase c = if c = 4294967295 then 4294967295 else c + 1 := by
  have hmax : (BitVec.allOnes 32 : Counter) = 4294967295 := rfl
  rw [Counter.increase, hmax]
  split
  · next h => exact h
  · rfl

/-- Settles O14: the count to lock, and where the event of the lock goes. -/
theorem unlockedSymbolsCountToLock : Obligations.UnlockedSymbolsCountToLock := by
  refine ⟨fun s l n w h hd => ⟨fun c hc => ?_, ?_⟩, fun s x => ⟨rfl, fun q => ⟨fun hq => ?_, fun hq => ?_⟩⟩⟩
  · have hvalid : ∃ sym : LinkSymbol, whenRunning c = linkSymbol l sym ∧ sym.isInvalid = false := by
      simp only [List.mem_cons, List.not_mem_nil, or_false] at hc
      rcases hc with rfl | rfl | rfl | rfl
      · exact ⟨.start, rfl, rfl⟩
      · exact ⟨.data w, rfl, rfl⟩
      · exact ⟨.fin, rfl, rfl⟩
      · exact ⟨.fill, rfl, rfl⟩
    obtain ⟨sym, hsym, hs⟩ := hvalid
    refine ⟨fun hn => ?_, fun hn => ?_⟩
    · rw [exec_symbol h hsym, linkSymbol_unlocked_counts hd hs hn]
    · rw [exec_symbol h hsym, linkSymbol_unlocked_locks hd hs hn, declareLock]
  · rw [exec_symbol (sym := .invalid) h rfl, linkSymbol_unlocked_invalid hd]
  · rw [State.post_ports, Pair.get_map, takeEvent_queues _ hq]
  · rw [State.post_ports, Pair.get_map, takeEvent_loses _ hq, Counter.increase_eq]

/-! ## Symbols in lock (R15) -/

/-- The state with the decoder of a link replaced. -/
def State.withDecoder (s : State) (l : LinkId) (d : Decoder) : State :=
  s.onReceiver l (fun r => { r with decoder := d })

@[simp] theorem State.withDecoder_receiver (s : State) (l : LinkId) (d : Decoder) :
    (s.withDecoder l d).receivers.get l = { s.receivers.get l with decoder := d } := quadModify_get_self _ _ _

theorem withDecoder_onReceiver (s : State) (l : LinkId) (d : Decoder) (f : Receiver → Receiver) :
    (s.withDecoder l d).onReceiver l f = s.onReceiver l (fun r => f { r with decoder := d }) := onReceiver_onReceiver s l _ f

theorem setReception_withDecoder (s : State) (l : LinkId) (d : Decoder) (x : Reception) :
    setReception l x (s.withDecoder l d) = s.onReceiver l (fun r => { r with decoder := d, reception := x }) :=
  withDecoder_onReceiver s l d _

/-- A valid symbol in lock. -/
theorem exec_valid {s : State} {l : LinkId} {window : List Bool} {good : Bool} {c : Instr} {sym : LinkSymbol}
    (h : s.resetActs = false) (hd : (s.receivers.get l).decoder = .locked window good)
    (hc : whenRunning c = linkSymbol l sym) (hs : sym.isInvalid = false) :
    exec c s = .next (receive l sym (s.withDecoder l (.locked ((false :: window).take 16) good))) := by
  rw [exec_symbol h hc, linkSymbol, hd]
  simp only [hs]
  rfl

/-- An invalid symbol that leaves the link in lock. -/
theorem exec_invalid {s : State} {l : LinkId} {window : List Bool} {good : Bool} (h : s.resetActs = false)
    (hd : (s.receivers.get l).decoder = .locked window good) (hn : ((true :: window).take 16).count true < 4) :
    exec (.linkInvalidSymbol l) s =
      .next (receiveInvalid l (s.withDecoder l (.locked ((true :: window).take 16) good))) := by
  have hkeeps : losesLock true window = false := by
    rw [losesLock, Bool.true_and]
    exact decide_eq_false (Nat.not_le.mpr hn)
  rw [exec_symbol (sym := .invalid) h rfl, linkSymbol, hd]
  simp only [LinkSymbol.isInvalid, hkeeps]
  rfl

/-- A header or a frame without storage is abandoned with a count. -/
theorem abandonInto_counts {s : State} {l : LinkId} {f : RxFrame} (cause : AbandonCause) (next : Reception)
    (h : (s.receivers.get l).reception = .header f ∨ (s.receivers.get l).reception = .discarding f) :
    abandonInto l cause next s =
      s.onReceiver l (fun r => { r with reception := next, counters := r.counters.abandon cause }) := by
  unfold abandonInto setReception
  rcases h with h | h <;> rw [h, onReceiver_onReceiver] <;> rfl

theorem abandonInto_silent {s : State} {l : LinkId} (cause : AbandonCause) (next : Reception)
    (h : (s.receivers.get l).reception = .between ∨ (s.receivers.get l).reception = .draining) :
    abandonInto l cause next s = setReception l next s := by
  unfold abandonInto
  rcases h with h | h <;> rw [h]

theorem abandonInto_counts_withDecoder {s : State} {l : LinkId} {f : RxFrame} (d : Decoder) (cause : AbandonCause)
    (next : Reception)
    (h : (s.receivers.get l).reception = .header f ∨ (s.receivers.get l).reception = .discarding f) :
    abandonInto l cause next (s.withDecoder l d) = s.onReceiver l (fun r =>
      { r with decoder := d, reception := next, counters := r.counters.abandon cause }) := by
  rw [abandonInto_counts (f := f) cause next (by simpa using h), withDecoder_onReceiver]

/-- Settles O15: outside a frame only START changes the reception. -/
theorem lockedSymbolsOutsideFrame : Obligations.LockedSymbolsOutsideFrame := by
  intro s l w window good h hd hout
  have hout' : ∀ d, ((s.withDecoder l d).receivers.get l).reception = .between ∨
      ((s.withDecoder l d).receivers.get l).reception = .draining := fun d => by simpa using hout
  refine ⟨?_, ?_, ?_, exec_valid (sym := .fill) h hd rfl rfl, fun hn => ?_⟩
  · rw [exec_valid (sym := .start) h hd rfl rfl, receive, receiveStart, abandonInto_silent _ _ (hout' _),
      setReception_withDecoder]
    rfl
  · rw [exec_valid (sym := .data w) h hd rfl rfl, receive, receiveData]
    rcases hout with hout | hout <;> simp only [State.withDecoder_receiver, hout] <;> rfl
  · rw [exec_valid (sym := .fin) h hd rfl rfl, receive, receiveEnd]
    rcases hout with hout | hout <;> simp only [State.withDecoder_receiver, hout]
    · exact congrArg Host.Outcome.next (onReceiver_congr s l _ _ (by rw [← hout]))
    · rw [setReception_withDecoder]
  · rw [exec_invalid h hd hn, receiveInvalid]
    rcases hout with hout | hout <;> simp only [State.withDecoder_receiver, hout] <;> rfl

/-! ## Symbols in a header (R16) -/

theorem receiveData_header {s : State} {l : LinkId} {f : RxFrame} (w : Word)
    (h : (s.receivers.get l).reception = .header f) : receiveData l w s = headerData l w f s := by
  rw [receiveData, h]

theorem headerWord_first {f : RxFrame} (w : Word) (h : f.taken = 0) :
    f.headerWord w = { f with taken := 1, crc := crcStep f.crc w, word0 := w } := by
  simp [RxFrame.headerWord, h]

theorem headerWord_second {f : RxFrame} (w : Word) (h : f.taken = 1) :
    f.headerWord w = { f with taken := 2, crc := crcStep f.crc w, sequence := w } := by
  simp [RxFrame.headerWord, h]

theorem headerWord_third {f : RxFrame} (w : Word) (h : f.taken = 2) :
    f.headerWord w = { f with taken := 3, crc := crcStep f.crc w, word2 := w } := by
  simp [RxFrame.headerWord, h]

/-- Settles O16: the first two words, and the symbols that abandon a header. -/
theorem symbolsInHeader : Obligations.SymbolsInHeader := by
  intro s l w window good f h hd hf
  refine ⟨fun htaken => ?_, exec_valid (sym := .fill) h hd rfl rfl, ?_, ?_, fun hn => ?_⟩
  · have hword : f.headerWord w = if f.taken = 0 then { f with taken := 1, crc := crcStep f.crc w, word0 := w }
        else { f with taken := 2, crc := crcStep f.crc w, sequence := w } := by
      split
      · next h0 => exact headerWord_first w h0
      · next h0 => exact headerWord_second w (by omega)
    rw [exec_valid (sym := .data w) h hd rfl rfl, receive, receiveData_header (f := f) w (by simpa using hf), headerData,
      if_pos htaken, setReception_withDecoder, hword]
  · rw [exec_valid (sym := .fin) h hd rfl rfl, receive, receiveEnd]
    simp only [State.withDecoder_receiver, hf]
    rw [abandonInto_counts_withDecoder _ _ _ (.inl hf)]
    rfl
  · rw [exec_valid (sym := .start) h hd rfl rfl, receive, receiveStart, abandonInto_counts_withDecoder _ _ _ (.inl hf)]
    rfl
  · rw [exec_invalid h hd hn, receiveInvalid]
    simp only [State.withDecoder_receiver, hf]
    rw [abandonInto_counts_withDecoder _ _ _ (.inl hf)]
    rfl

/-! ## The header is checked (R16, R17) -/

/-- The third word of a header is taken by the checks. -/
theorem exec_headerEnd {s : State} {l : LinkId} {w : Word} {window : List Bool} {good : Bool} {f : RxFrame}
    (h : s.resetActs = false) (hd : (s.receivers.get l).decoder = .locked window good)
    (hf : (s.receivers.get l).reception = .header f) (ht : f.taken = 2) : exec (.linkDataSymbol l w) s =
      .next (takeHeader l { f with taken := 3, crc := crcStep f.crc w, word2 := w }
        (s.withDecoder l (.locked ((false :: window).take 16) good))) := by
  rw [exec_valid (sym := .data w) h hd rfl rfl, receive, receiveData_header (f := f) w (by simpa using hf), headerData,
    if_neg (by omega), headerWord_third w ht]

theorem RxFrame.isData_iff (f : RxFrame) : f.isData = true ↔ f.word0.extractLsb' 8 8 = 1 := by
  simp [RxFrame.isData, RxFrame.kind]

theorem RxFrame.isNotice_iff (f : RxFrame) : f.isNotice = true ↔ f.word0.extractLsb' 8 8 = 2 := by
  simp [RxFrame.isNotice, RxFrame.kind]

theorem RxFrame.kindFails_iff (f : RxFrame) : f.kindFails = true ↔
    f.word0.extractLsb' 8 8 ≠ 1 ∧ (f.word0.extractLsb' 8 8 ≠ 2 ∨ (f.word2 ≠ 1 ∧ f.word2 ≠ 2)) := by
  rw [RxFrame.kindFails, Bool.not_eq_true', ← Bool.not_eq_true, Bool.or_eq_true, Bool.and_eq_true, f.isData_iff,
    f.isNotice_iff, Bool.or_eq_true, beq_iff_eq, beq_iff_eq]
  tauto

theorem RxFrame.not_kindFails_iff (f : RxFrame) : f.kindFails = false ↔
    f.word0.extractLsb' 8 8 = 1 ∨ (f.word0.extractLsb' 8 8 = 2 ∧ (f.word2 = 1 ∨ f.word2 = 2)) := by
  rw [← Bool.not_eq_true, f.kindFails_iff]
  tauto

theorem takeHeader_kindFails {f : RxFrame} (l : LinkId) (s : State) (h : f.kindFails = true) : takeHeader l f s =
    rejectFrame l (fun c => { c with rejectedKind := Counter.increase c.rejectedKind }) s := by
  simp [takeHeader, RxFrame.checkHeader, h]

theorem takeHeader_tagFails {f : RxFrame} (l : LinkId) (s : State) (h : f.kindFails = false) (ht : f.sensorTag ≠ f.tag) :
    takeHeader l f s = rejectFrame l (fun c => { c with rejectedTag := Counter.increase c.rejectedTag }) s := by
  simp [takeHeader, RxFrame.checkHeader, h, ht]

theorem takeHeader_lengthFails {f : RxFrame} (l : LinkId) (s : State) (h : f.kindFails = false)
    (ht : f.sensorTag = f.tag) (hd : f.isData = true) (hn : f.word2.toNat ≠ f.slopeCount) : takeHeader l f s =
      rejectFrame l (fun c => { c with rejectedLength := Counter.increase c.rejectedLength }) s := by
  simp [takeHeader, RxFrame.checkHeader, h, ht, hd, hn]

theorem takeHeader_notice {f : RxFrame} (l : LinkId) (s : State) (h : f.kindFails = false)
    (ht : f.sensorTag = f.tag) (hd : f.isData = false) : takeHeader l f s = setReception l (.discarding f) s := by
  simp [takeHeader, RxFrame.checkHeader, h, ht, hd]

theorem takeHeader_data {f : RxFrame} (l : LinkId) (s : State) (h : f.kindFails = false)
    (ht : f.sensorTag = f.tag) (hd : f.isData = true) (hn : f.word2.toNat = f.slopeCount) :
    takeHeader l f s = acceptData l f s := by
  simp [takeHeader, RxFrame.checkHeader, h, ht, hd, hn]

theorem rejectFrame_withDecoder (s : State) (l : LinkId) (d : Decoder) (f : ReceiverCounters → ReceiverCounters) :
    rejectFrame l f (s.withDecoder l d) = s.onReceiver l (fun r =>
      { r with decoder := d, reception := .draining, counters := f r.counters }) := by
  rw [rejectFrame, setReception_withDecoder, onReceiver_onReceiver]
  rfl

/-- A data frame accepted in IDLE is dropped. -/
theorem acceptData_idle {s : State} (l : LinkId) (f : RxFrame) (h : s.manager.state = .idle) : acceptData l f s =
    s.onReceiver l (fun r => { r with
      reception := .discarding f
      receivedSeq := f.sequence
      counters := { r.counters with dropped := Counter.increase r.counters.dropped } }) := by
  rw [acceptData]
  refine (if_pos h).trans ?_
  rw [dropFrame, setReception, onReceiver_onReceiver, onReceiver_onReceiver]
  rfl

/-- The state with a new frame at the end of the staging of a link, before it is offered. -/
def State.staged (s : State) (l : LinkId) (f : RxFrame) : State :=
  s.onReceiver l (fun r => { r with
    reception := .storing f, receivedSeq := f.sequence, fifo := r.fifo ++ [newEntry f] })

theorem acceptData_running {s : State} (l : LinkId) (f : RxFrame) (h : s.manager.state ≠ .idle) :
    acceptData l f s = applyOutOfCycle l f (offerHead l (evalLead (s.staged l f))) := by
  rw [acceptData]
  refine (if_neg h).trans ?_
  rw [setReception, onReceiver_onReceiver, onReceiver_onReceiver]
  rfl

theorem staged_fifo (s : State) (l : LinkId) (f : RxFrame) :
    ((s.staged l f).receivers.get l).fifo = (s.receivers.get l).fifo ++ [newEntry f] := by
  simp [State.staged]

theorem staged_fifo_ne (s : State) {l k : LinkId} (f : RxFrame) (h : k ≠ l) :
    ((s.staged l f).receivers.get k).fifo = (s.receivers.get k).fifo := by
  simp [State.staged, quadModify_get_ne _ _ h]

theorem offerHead_attachedHead {s : State} {l : LinkId} {e : FifoEntry} {rest : List FifoEntry}
    (hf : (s.receivers.get l).fifo = e :: rest) (ha : e.attached = true) : offerHead l s = s := by
  unfold offerHead
  split
  · next x rest' _ hf' _ =>
    rw [hf'] at hf
    cases hf
    exact if_pos ha
  · rfl

theorem applyOutOfCycle_queue {s : State} {l : LinkId} (f : RxFrame) (h : (s.slots.get l).policy.outOfCycle = .queue) :
    applyOutOfCycle l f s = s := by
  rw [applyOutOfCycle, h]
  exact ite_self s

theorem applyOutOfCycle_attached {s : State} {l : LinkId} (f : RxFrame) (h : lastAttached (s.receivers.get l).fifo = true) :
    applyOutOfCycle l f s = s := by
  rw [applyOutOfCycle, if_pos h]

theorem lastAttached_concat (front : List FifoEntry) (e : FifoEntry) : lastAttached (front ++ [e]) = e.attached := by
  simp [lastAttached]

/-- A frame that the DROP policy refuses leaves the staging as it was. -/
theorem applyOutOfCycle_drop {s : State} {l : LinkId} (f : RxFrame) (h : (s.slots.get l).policy.outOfCycle = .drop)
    (hflow : (s.receivers.get l).flow = .hold → 32 < fifoGroups (s.receivers.get l).fifo) :
    applyOutOfCycle l f (s.staged l f) = s.onReceiver l (fun r => { r with
      reception := .discarding f
      receivedSeq := f.sequence
      counters := { r.counters with dropped := Counter.increase r.counters.dropped } }) := by
  have hlast : lastAttached ((s.staged l f).receivers.get l).fifo = false := by
    rw [staged_fifo, lastAttached_concat]
    rfl
  have hpolicy : ((s.staged l f).slots.get l).policy.outOfCycle = .drop := h
  have hflow' : Flow.afterRemoval (fifoGroups (s.receivers.get l).fifo) (s.receivers.get l).flow =
      (s.receivers.get l).flow := by
    unfold Flow.afterRemoval
    split
    · next hle =>
      cases hfl : (s.receivers.get l).flow with
      | go => rfl
      | hold => exact absurd (hflow hfl) (Nat.not_lt.mpr hle)
    · rfl
  rw [applyOutOfCycle, if_neg (by simp [hlast]), hpolicy]
  simp only [dropFrame, setReception, State.staged, onReceiver_onReceiver]
  refine onReceiver_congr s l _ _ ?_
  simp only [Receiver.withFewer, Receiver.count, List.dropLast_concat, hflow']

/-- A frame staged that neither opens a cycle nor is offered to one. -/
def State.outOfCycleAt (s : State) (l : LinkId) : Prop :=
  s.manager.state = .closing ∨
    (s.manager.state = .armed ∧ (s.manager.settings.mode ≠ .lead ∨
      (s.slots.get s.manager.settings.leadSlot).muted = true ∨
      (s.manager.settings.leadSlot ≠ l ∧ (s.receivers.get s.manager.settings.leadSlot).fifo = []))) ∨
    (s.manager.state = .gathering ∧ ∃ e rest, (s.receivers.get l).fifo = e :: rest ∧ e.attached = true) ∨
    (s.manager.state = .gathering ∧ (s.receivers.get l).fifo = [] ∧
      ∃ o, s.manager.openRecord = some o ∧ o.statuses.get l ≠ some .waiting)

theorem outOfCycleAt_withDecoder {s : State} {l : LinkId} (d : Decoder) (h : s.outOfCycleAt l) :
    (s.withDecoder l d).outOfCycleAt l := by
  unfold State.outOfCycleAt
  rw [State.withDecoder_receiver]
  refine h.imp_right (Or.imp_left (And.imp_right (Or.imp_right (Or.imp_right ?_))))
  rintro ⟨hne, hempty⟩
  exact ⟨hne, by simp [State.withDecoder, quadModify_get_ne _ _ hne, hempty]⟩

theorem acceptData_outOfCycle {s : State} {l : LinkId} (f : RxFrame) (h : s.outOfCycleAt l) :
    acceptData l f s = applyOutOfCycle l f (s.staged l f) := by
  have hstate : s.manager.state ≠ .idle := by
    rcases h with h | ⟨h, -⟩ | ⟨h, -⟩ | ⟨h, -⟩ <;> simp [h]
  have hlead : leadCondition (s.staged l f) = false := by
    refine leadCondition_eq_false.mpr ?_
    rcases h with h | ⟨-, h⟩ | ⟨h, -⟩ | ⟨h, -⟩
    · exact .inr (.inl (by simp [State.staged, h]))
    · rcases h with h | h | ⟨hne, hempty⟩
      · exact .inl h
      · exact .inr (.inr (.inl h))
      · exact .inr (.inr (.inr ((staged_fifo_ne s f hne).trans hempty)))
    · exact .inr (.inl (by simp [State.staged, h]))
    · exact .inr (.inl (by simp [State.staged, h]))
  have hoffer : offerHead l (s.staged l f) = s.staged l f := by
    rcases h with h | ⟨h, -⟩ | ⟨-, e, rest, hf, ha⟩ | ⟨-, -, o, ho, hs⟩
    · exact offerHead_refused _ _ (.inl (by simp [State.staged, h]))
    · exact offerHead_refused _ _ (.inl (by simp [State.staged, h]))
    · exact offerHead_attachedHead (e := e) (rest := rest ++ [newEntry f]) (by rw [staged_fifo, hf]; rfl) ha
    · refine offerHead_refused _ _ (.inr ?_)
      rw [State.staged, statusOf_onReceiver, statusOf, ho]
      exact hs
  rw [acceptData_running l f hstate, evalLead_unmet _ hlead, hoffer]

/-- A frame that the open cycle waits for is attached. -/
theorem acceptData_attaches {s : State} {l : LinkId} (f : RxFrame) {o : OpenRecord} (hs : s.manager.state = .gathering)
    (ho : s.manager.openRecord = some o) (hw : o.statuses.get l = some .waiting) (hf : (s.receivers.get l).fifo = []) :
    acceptData l f s = attach l (newEntry f) (s.staged l f) := by
  have hstatus : statusOf l (s.staged l f) = some .waiting := by
    rw [State.staged, statusOf_onReceiver, statusOf, ho]
    exact hw
  have hfifo : ((s.staged l f).receivers.get l).fifo = [newEntry f] := by rw [staged_fifo, hf, List.nil_append]
  rw [acceptData_running l f (by simp [hs]),
    evalLead_unmet _ (leadCondition_eq_false.mpr (.inr (.inl (by simp [State.staged, hs])))),
    offerHead_attaches l (s.staged l f) _ _ hs hstatus hfifo rfl]
  refine applyOutOfCycle_attached f ?_
  have hview := congrArg Prod.fst (attach_self l (newEntry f) (s.staged l f) (by simp [State.staged, ho]))
  dsimp only at hview
  rw [hview, hfifo]
  rfl

/-- Settles O17: the checks in their order, then the frame dropped, queued or attached. -/
theorem headerChecks : Obligations.HeaderChecks := by
  intro s l w window good f h hd hf ht
  have hrun := exec_headerEnd (w := w) h hd hf ht
  set g : RxFrame := { f with taken := 3, crc := crcStep f.crc w, word2 := w } with hg
  set d : Decoder := .locked ((false :: window).take 16) good with hdec
  refine ⟨fun hkind => ?_, fun hkind => ⟨fun htag => ?_, fun htag hdata hlen => ?_, fun htag hnotice => ?_,
    fun htag hdata hlen => ⟨fun hidle => ?_, fun hout => ⟨fun hqueue => ?_, fun hdrop hflow => ?_⟩, fun o hs ho hw he => ?_⟩⟩⟩
  · rw [hrun, takeHeader_kindFails l _ (g.kindFails_iff.mpr hkind), rejectFrame_withDecoder]
  · rw [hrun, takeHeader_tagFails l _ (g.not_kindFails_iff.mpr hkind) htag, rejectFrame_withDecoder]
  · rw [hrun, takeHeader_lengthFails l _ (g.not_kindFails_iff.mpr hkind) htag (g.isData_iff.mpr hdata) hlen,
      rejectFrame_withDecoder]
  · have hnot : g.isData = false := by
      rw [← Bool.not_eq_true, g.isData_iff]
      exact fun hone => absurd (hone.symm.trans hnotice) (by decide)
    rw [hrun, takeHeader_notice l _ (g.not_kindFails_iff.mpr hkind) htag hnot, setReception_withDecoder]
  · rw [hrun, takeHeader_data l _ (g.not_kindFails_iff.mpr hkind) htag (g.isData_iff.mpr hdata) hlen,
      acceptData_idle (s := s.withDecoder l d) l g hidle, withDecoder_onReceiver]
  · rw [hrun, takeHeader_data l _ (g.not_kindFails_iff.mpr hkind) htag (g.isData_iff.mpr hdata) hlen,
      acceptData_outOfCycle g (outOfCycleAt_withDecoder d hout),
      applyOutOfCycle_queue (s := (s.withDecoder l d).staged l g) g hqueue, State.staged, withDecoder_onReceiver]
    rfl
  · rw [hrun, takeHeader_data l _ (g.not_kindFails_iff.mpr hkind) htag (g.isData_iff.mpr hdata) hlen,
      acceptData_outOfCycle g (outOfCycleAt_withDecoder d hout),
      applyOutOfCycle_drop (s := s.withDecoder l d) g hdrop (by simpa using hflow), withDecoder_onReceiver]
  · rw [takeHeader_data l _ (g.not_kindFails_iff.mpr hkind) htag (g.isData_iff.mpr hdata) hlen,
      acceptData_attaches (s := s.withDecoder l d) g hs ho hw (by simpa using he)] at hrun
    have hopen : ((s.withDecoder l d).staged l g).manager.openRecord = some o := ho
    have hview := attach_self l (newEntry g) ((s.withDecoder l d).staged l g) (by simp [hopen])
    simp only [linkView, Prod.mk.injEq] at hview
    obtain ⟨hreceiver, hstatus, hrecord, hfresh⟩ := hview
    obtain ⟨-, -, -, hslots, -, -, -, -, -, hports, -⟩ := attach_keeps l (newEntry g) ((s.withDecoder l d).staged l g)
    have hfifo : (((s.withDecoder l d).staged l g).receivers.get l).fifo = [newEntry g] := by
      rw [staged_fifo, State.withDecoder_receiver]
      simp [he]
    rw [hfifo] at hreceiver
    generalize hu : attach l (newEntry g) ((s.withDecoder l d).staged l g) = u at *
    obtain ⟨o', ho'⟩ : ∃ o', u.manager.openRecord = some o' := by
      rw [statusOf] at hstatus
      split at hstatus
      · cases hstatus
      · next o' ho' => exact ⟨o', ho'⟩
    rw [statusOf, ho'] at hstatus
    refine ⟨u, o', hrun, ?_, ?_, ?_, ?_, ho', hstatus, ?_, fun a => ?_, hports, hslots⟩
    · rw [hreceiver]
      simp [State.staged]
    · rw [hreceiver]
      simp [State.staged, hg]
    · rw [hreceiver]
      rfl
    · rw [hreceiver]
      rfl
    · rw [hrecord]
      rfl
    · rw [hfresh]
      rfl

end Sys2Proof.Machine

/-!
SUPPORT. The end of a group operation: the commit, the report of the last group and the close of the cycle.
-/
namespace Sys2Proof.Machine

/-! ## The statuses of the open cycle -/

theorem allArrived_iff (o : OpenRecord) :
    allArrived o = true ↔ ∀ l, o.statuses.get l = none ∨ o.statuses.get l = some .arrived := by
  rw [allArrived, List.all_eq_true]
  refine ⟨fun h l => ?_, fun h l _ => ?_⟩
  · have hl := h l (mem_links l)
    split at hl <;> simp_all
  · rcases h l with h | h <;> rw [h]

theorem closeIfComplete_closes {s : State} {o : OpenRecord} (hs : s.manager.state = .gathering)
    (ho : s.manager.openRecord = some o)
    (h : ∀ l, o.statuses.get l = none ∨ o.statuses.get l = some .arrived) :
    closeIfComplete s = closeCycle .complete s := by
  rw [closeIfComplete, hs, ho]
  exact if_pos ((allArrived_iff o).mpr h)

theorem closeIfComplete_waits {s : State} {o : OpenRecord} {k : LinkId} (ho : s.manager.openRecord = some o)
    (hn : o.statuses.get k ≠ none) (ha : o.statuses.get k ≠ some .arrived) : closeIfComplete s = s := by
  have hnot : ¬ allArrived o = true := fun h => by
    rcases (allArrived_iff o).mp h k with h | h
    · exact hn h
    · exact ha h
  unfold closeIfComplete
  split
  · next o' _ ho' =>
    rw [ho] at ho'
    cases ho'
    exact if_neg hnot
  · rfl

theorem setStatus_open {s : State} {o : OpenRecord} (l : LinkId) (x : AttachStatus)
    (ho : s.manager.openRecord = some o) : setStatus l x s =
      { s with manager := { s.manager with openRecord := some { o with statuses := o.statuses.set l (some x) } } } := by
  simp [setStatus, State.onManager, ho]

/-! ## A report that leaves the cycle open -/

theorem reportLastGroup_attached {s : State} {o : OpenRecord} {l : LinkId} {v g : Bool}
    (ho : s.manager.openRecord = some o) (hst : o.statuses.get l = some (.attached v g)) :
    reportLastGroup l s = closeIfComplete (setStatus l (reportedStatus v true) s) := by
  rw [reportLastGroup, statusOf, ho]
  dsimp only
  rw [hst]

theorem reportLastGroup_unattached {s : State} {o : OpenRecord} {l : LinkId} (ho : s.manager.openRecord = some o)
    (hst : ∀ v g, o.statuses.get l ≠ some (.attached v g)) : reportLastGroup l s = s := by
  rw [reportLastGroup, statusOf, ho]
  dsimp only
  split
  · next v g h => exact absurd h (hst v g)
  all_goals rfl

theorem reportVerified_attached {s : State} {o : OpenRecord} {l : LinkId} {v g : Bool}
    (ho : s.manager.openRecord = some o) (hst : o.statuses.get l = some (.attached v g)) :
    reportVerified l s = closeIfComplete (setStatus l (reportedStatus true g) s) := by
  rw [reportVerified, statusOf, ho]
  dsimp only
  rw [hst]

/-- A status that is not an arrival keeps the cycle open. -/
theorem closeIfComplete_setStatus {s : State} {o : OpenRecord} {l : LinkId} {x : AttachStatus}
    (ho : s.manager.openRecord = some o) (hx : x ≠ .arrived) :
    closeIfComplete (setStatus l x s) = setStatus l x s := by
  rw [setStatus_open l x ho]
  exact closeIfComplete_waits (k := l) rfl (by simp) (by simpa using hx)

/-- An arrival keeps the cycle open while another slot has not arrived. -/
theorem closeIfComplete_setArrived {s : State} {o : OpenRecord} {l k : LinkId} (ho : s.manager.openRecord = some o)
    (hk : k ≠ l) (hn : o.statuses.get k ≠ none) (ha : o.statuses.get k ≠ some .arrived) :
    closeIfComplete (setStatus l .arrived s) = setStatus l .arrived s := by
  rw [setStatus_open l .arrived ho]
  exact closeIfComplete_waits (k := k) rfl (by simpa [Quad.get_set_ne _ _ hk] using hn)
    (by simpa [Quad.get_set_ne _ _ hk] using ha)

/-- The last arrival closes the cycle. -/
theorem closeIfComplete_lastArrival {s : State} {o : OpenRecord} {l : LinkId} (hs : s.manager.state = .gathering)
    (ho : s.manager.openRecord = some o)
    (hothers : ∀ k, k ≠ l → o.statuses.get k = none ∨ o.statuses.get k = some .arrived) :
    closeIfComplete (setStatus l .arrived s) = closeCycle .complete (setStatus l .arrived s) := by
  refine closeIfComplete_closes (o := { o with statuses := o.statuses.set l (some .arrived) }) ?_ ?_ (fun k => ?_)
  · rw [setStatus_open l .arrived ho]
    exact hs
  · rw [setStatus_open l .arrived ho]
  · dsimp only
    rw [Quad.get_set]
    split
    · exact .inr rfl
    · next hk => exact hothers k hk

/-! ## The commit (R24) -/

theorem isCandidate_iff (s : State) (l : LinkId) : isCandidate s l = true ↔
    ∃ r e rest, s.engine.records.get l = some r ∧ r.state = .accumulating ∧
      (s.receivers.get l).fifo = e :: rest ∧ e.attached = true ∧ e.groups ≠ [] := by
  unfold isCandidate
  cases s.engine.records.get l with
  | none => simp
  | some r => cases (s.receivers.get l).fifo with
    | nil => simp
    | cons e rest => simp [and_assoc]

/-- A close leaves nothing for the engine to choose: it clears every record. -/
theorem closeCycle_isCandidate {s : State} {o : OpenRecord} (c : CloseCause) (h : s.manager.openRecord = some o)
    (k : LinkId) : isCandidate (closeCycle c s) k = false := by
  rw [← Bool.not_eq_true, isCandidate_iff, (closeCycle_engine c s o h).1]
  simp [Engine.close]

theorem groupOperationEnd_void {s : State} {o : Operation} (h : s.engine.inFlight = some o) (hv : o.isVoid = true) :
    groupOperationEnd s = engineChoose (s.onEngine (fun e => { e with inFlight := none })) := by
  rw [groupOperationEnd, h]
  exact if_pos hv

/-- The engine after the commit. -/
theorem groupOperationEnd_commits {s : State} {o : Operation} (h : s.engine.inFlight = some o) (hv : o.isVoid = false) :
    groupOperationEnd s = engineChoose
      (if (s.engine.commit o).isMultiplied o.slot then reportLastGroup o.slot (s.onEngine (Engine.commit o))
       else s.onEngine (Engine.commit o)) := by
  rw [groupOperationEnd, h]
  exact if_neg (by simp [hv])

theorem commit_record {e : Engine} {o : Operation} {r : Attachment} (hr : e.records.get o.slot = some r) :
    (e.commit o).records.get o.slot = some r.countGroup := by
  simp [Engine.commit, hr]

theorem commit_records {e : Engine} {o : Operation} {r : Attachment} (hr : e.records.get o.slot = some r) :
    (e.commit o).records = e.records.set o.slot (some r.countGroup) := by
  simp [Engine.commit, quadModify, hr]

theorem commit_isMultiplied {e : Engine} {o : Operation} {r : Attachment} (hr : e.records.get o.slot = some r) :
    (e.commit o).isMultiplied o.slot = (r.countGroup.state == .multiplied) := by
  rw [Engine.isMultiplied, commit_record hr]

theorem countGroup_last {r : Attachment} (h : r.done + 1 = r.groups) :
    r.countGroup = { r with done := r.done + 1, state := .multiplied } := by
  simp [Attachment.countGroup, h]

theorem countGroup_more {r : Attachment} (h : r.done + 1 ≠ r.groups) :
    r.countGroup = { r with done := r.done + 1 } := by
  simp [Attachment.countGroup, h]

theorem commit_fresh_self (e : Engine) (o : Operation) {a : Nat} (ha : a < 1024) :
    ((e.commit o).fresh.get o.slot).at a = (e.fresh.get o.slot).at a + o.sums.at a := by
  simp [Engine.commit, addContribution, Config.actuators, ha]

theorem commit_fresh_other (e : Engine) {o : Operation} {l : LinkId} (h : l ≠ o.slot) :
    (e.commit o).fresh.get l = e.fresh.get l := by
  simp [Engine.commit, quadModify_get_ne _ _ h]

/-- The last group of a frame not yet verified, and of one verified while others wait, keeps the cycle open. -/
theorem reportLastGroup_open {s : State} {o : OpenRecord} {l : LinkId} {m : Manager}
    (ho : s.manager.openRecord = some o)
    (h : (∃ g, o.statuses.get l = some (.attached false g) ∧ s.manager.state = .gathering ∧
        m = { s.manager with
          openRecord := some { o with statuses := o.statuses.set l (some (.attached false true)) } }) ∨
      (∃ g, o.statuses.get l = some (.attached true g) ∧ s.manager.state = .gathering ∧
        (∃ k, k ≠ l ∧ o.statuses.get k ≠ none ∧ o.statuses.get k ≠ some .arrived) ∧
        m = { s.manager with openRecord := some { o with statuses := o.statuses.set l (some .arrived) } }) ∨
      ((∀ v g, o.statuses.get l ≠ some (.attached v g)) ∧ m = s.manager)) :
    reportLastGroup l s = { s with manager := m } := by
  rcases h with ⟨g, hst, -, rfl⟩ | ⟨g, hst, -, ⟨k, hk, hn, ha⟩, rfl⟩ | ⟨hst, rfl⟩
  · rw [reportLastGroup_attached ho hst, show reportedStatus false true = .attached false true from rfl,
      closeIfComplete_setStatus ho (by simp), setStatus_open _ _ ho]
  · rw [reportLastGroup_attached ho hst, show reportedStatus true true = .arrived from rfl,
      closeIfComplete_setArrived ho hk hn ha, setStatus_open _ _ ho]
  · exact reportLastGroup_unattached ho hst

/-- Settles O23: a void operation ends, else the operation is committed and its last group reported. -/
theorem groupOperationCommits : Obligations.GroupOperationCommits := by
  refine ⟨isCandidate_iff, fun s o h hwf hfl => ⟨fun hv => ?_, fun r m x hv hr hcases => ?_⟩⟩
  · exact ⟨_, (exec_running .groupOperationEnd h).trans (congrArg Host.Outcome.next (groupOperationEnd_void hfl hv)),
      engineChoose_chooses _ rfl⟩
  · obtain ⟨-, -, hengine, -⟩ := (memoryWf_iff s).mp hwf
    obtain ⟨-, -, hresiduals, -⟩ := s.engine.memoryWf_iff.mp hengine
    have hrun := (exec_running .groupOperationEnd h).trans
      (congrArg Host.Outcome.next (groupOperationEnd_commits hfl hv))
    rw [commit_isMultiplied hr] at hrun
    have hstate : (if (r.countGroup.state == .multiplied) = true then reportLastGroup o.slot (s.onEngine (Engine.commit o))
        else s.onEngine (Engine.commit o)) = { s.onEngine (Engine.commit o) with manager := m } ∧
        r.countGroup = { r with done := r.done + 1, state := x } := by
      rcases hcases with ⟨hmore, hacc, rfl, rfl⟩ | ⟨hlast, rfl, rec, ho, hreport⟩
      · rw [countGroup_more hmore, ← hacc]
        exact ⟨if_neg (by simp [hacc]), rfl⟩
      · rw [countGroup_last hlast]
        exact ⟨(if_pos rfl).trans (reportLastGroup_open (s := s.onEngine (Engine.commit o)) ho hreport), rfl⟩
    obtain ⟨hreported, hcount⟩ := hstate
    rw [hreported] at hrun
    have hread := fun j => Cells.read_writeList zeroCell s.engine.residuals o.firstIndex j o.residuals hresiduals
    refine ⟨_, _, hrun, engineChoose_chooses _ rfl, rfl, rfl, rfl, ?_, fun a ha => commit_fresh_self _ _ ha,
      fun k hk => ?_, fun j hj => ?_, fun l hl => commit_fresh_other _ hl, rfl, rfl⟩
    · rw [← hcount]
      exact commit_records hr
    · refine (hread _).trans ?_
      rw [if_pos (by omega)]
      congr 1
      omega
    · refine (hread _).trans (if_neg (by omega))

/-- Settles O24: the last group of the last slot, verified, closes the cycle. -/
theorem lastArrivalClosesCycle : Obligations.LastArrivalClosesCycle := by
  intro s o r rec g h hfl hv hr hlast hs ho hst hothers
  have hrun := (exec_running .groupOperationEnd h).trans
    (congrArg Host.Outcome.next (groupOperationEnd_commits hfl hv))
  set u := s.onEngine (Engine.commit o) with hu
  have hreport : reportLastGroup o.slot u = closeCycle .complete (setStatus o.slot .arrived u) := by
    rw [reportLastGroup_attached (s := u) ho hst, show reportedStatus true true = .arrived from rfl,
      closeIfComplete_lastArrival (s := u) hs ho hothers]
  rw [commit_isMultiplied hr, countGroup_last hlast] at hrun
  have hcloses : s.closesComplete (closeCycle .complete (setStatus o.slot .arrived u)) rec o.slot :=
    closesComplete_of_lastArrival s (s.engine.commit o) rec o.slot ho hothers
      (fun l hl => ⟨commit_fresh_other _ hl, rfl⟩)
  have hopen : (setStatus o.slot .arrived u).manager.openRecord =
      some { rec with statuses := rec.statuses.set o.slot (some .arrived) } := by
    rw [setStatus_open o.slot .arrived (s := u) ho]
  obtain ⟨hengine, -⟩ := closeCycle_engine .complete _ _ hopen
  rw [setStatus_engine] at hengine
  have hselection : (closeSelections (rec.statuses.set o.slot (some .arrived)) (setStatus o.slot .arrived u).slots).get
      o.slot = (closeSlot (some .arrived) (s.slots.get o.slot)).selection := by
    rw [setStatus_open o.slot .arrived (s := u) ho]
    simp [closeSelections, hu]
  have hsettled := engineChoose_settled _ (.inr (closeCycle_isCandidate .complete hopen))
  dsimp only at hengine
  generalize hw : closeCycle .complete (setStatus o.slot .arrived u) = w at *
  have hheld : w.engine.held.get o.slot = if (closeSlot (some .arrived) (s.slots.get o.slot)).selection = .fresh then
      (s.engine.commit o).fresh.get o.slot else s.engine.held.get o.slot := by
    rw [hengine, Engine.close, Quad.get_tabulate, hselection]
    rfl
  refine ⟨w, ?_, hcloses, by rw [hengine]; rfl, fun hen a ha => ?_, fun hdis => ?_⟩
  · rw [hrun, hreport]
    exact congrArg Host.Outcome.next hsettled
  · rw [hheld, if_pos (closeSlot_arrived _ hen).1]
    exact commit_fresh_self _ _ ha
  · rw [hheld, (closeSlot_notExpected (some .arrived) _ (.inl hdis)).2]
    exact if_neg (by simp [hdis])

end Sys2Proof.Machine

/-!
SUPPORT. The body of a frame: its words, its groups, and the symbols that abandon it.
-/
namespace Sys2Proof.Machine

/-! ## The CRC bit by bit (R15) -/

/-- One bit of the CRC register against one bit of the word, high bit first. -/
def crcBit (w : Word) (r : Word) (i : Nat) : Word :=
  if r.getMsbD 0 = w.getMsbD i then r <<< 1 else (r <<< 1) ^^^ 0x1021

/-- Shifting the register with the rest of the word added is one bit, then the shift of the new register. -/
theorem crcShift_succ_xor (w r : Word) (k : Nat) (hk : k < 16) :
    crcShift (k + 1) (r ^^^ (w <<< (15 - k))) = crcShift k (crcBit w r (15 - k) ^^^ (w <<< (16 - k))) := by
  have hmsb : (r ^^^ (w <<< (15 - k))).msb = (r.getMsbD 0 != w.getMsbD (15 - k)) := by
    rw [BitVec.msb_xor, BitVec.msb, BitVec.msb, BitVec.getMsbD_shiftLeft, Nat.zero_add]
  have hshift : (r ^^^ (w <<< (15 - k))) <<< 1 = (r <<< 1) ^^^ (w <<< (16 - k)) := by
    rw [BitVec.shiftLeft_xor_distrib, ← BitVec.shiftLeft_add, show 15 - k + 1 = 16 - k by omega]
  rw [crcShift, hmsb, hshift, crcBit]
  by_cases hbit : r.getMsbD 0 = w.getMsbD (15 - k)
  · simp [hbit]
  · rw [if_pos (by simpa using hbit), if_neg hbit, BitVec.xor_assoc, BitVec.xor_comm (w <<< (16 - k)),
      ← BitVec.xor_assoc]
    rfl

theorem crcShift_eq_foldl (w r : Word) (k : Nat) (hk : k ≤ 16) :
    crcShift k (r ^^^ (w <<< (16 - k))) = (List.range' (16 - k) k).foldl (crcBit w) r := by
  induction k generalizing r with
  | zero => simp [crcShift]
  | succ k ih =>
    rw [show 16 - (k + 1) = 15 - k by omega, crcShift_succ_xor w r k (by omega), ih _ (by omega), List.range'_succ,
      List.foldl_cons, show 15 - k + 1 = 16 - k by omega]

theorem crcStep_eq_foldl (x w : Word) : crcStep x w = (List.range 16).foldl (crcBit w) x := by
  have hword := crcShift_eq_foldl w x 16 (Nat.le_refl 16)
  rw [show 16 - 16 = 0 from rfl, BitVec.shiftLeft_zero] at hword
  rw [crcStep, hword, List.range_eq_range']

/-! ## The words of a body (R18, R19) -/

theorem receiveData_storing {s : State} {l : LinkId} {f : RxFrame} (w : Word)
    (h : (s.receivers.get l).reception = .storing f) : receiveData l w s = storingData l w f s := by
  rw [receiveData, h]

theorem receiveData_discarding {s : State} {l : LinkId} {f : RxFrame} (w : Word)
    (h : (s.receivers.get l).reception = .discarding f) : receiveData l w s = discardingData l w f s := by
  rw [receiveData, h]

theorem bodyWord_inside {f : RxFrame} (w : Word) (h : f.taken + 1 < f.expected) :
    f.bodyWord w = { f with taken := f.taken + 1, crc := crcStep f.crc w } := by
  rw [RxFrame.bodyWord, if_neg (by omega)]

theorem bodyWord_last {f : RxFrame} (w : Word) (h : f.taken + 1 = f.expected) :
    f.bodyWord w = { f with taken := f.expected, crcWord := w } := by
  rw [RxFrame.bodyWord, if_pos h, h]

theorem storingData_inGroup {f : RxFrame} (l : LinkId) (w : Word) (s : State) (h : f.taken + 1 < f.expected)
    (hg : f.slopes.length + 1 < 32) : storingData l w f s =
      setReception l (.storing { f with taken := f.taken + 1, crc := crcStep f.crc w, slopes := f.slopes ++ [w] }) s := by
  rw [storingData, if_neg (by omega), if_neg (by omega), if_pos (by simpa [Config.groupSize] using hg),
    bodyWord_inside w h]

theorem storingData_completesGroup {f : RxFrame} (l : LinkId) (w : Word) (s : State) (h : f.taken + 1 < f.expected)
    (hg : f.slopes.length + 1 = 32) : storingData l w f s =
      completeGroup l { f with taken := f.taken + 1, crc := crcStep f.crc w } (f.slopes ++ [w]) s := by
  rw [storingData, if_neg (by omega), if_neg (by omega), if_neg (by simp [Config.groupSize, hg]), bodyWord_inside w h]

theorem storingData_last {f : RxFrame} (l : LinkId) (w : Word) (s : State) (h : f.taken + 1 = f.expected) :
    storingData l w f s = setReception l (.storing { f with taken := f.expected, crcWord := w }) s := by
  rw [storingData, if_neg (by omega), if_pos h, bodyWord_last w h]

theorem storingData_after {f : RxFrame} (l : LinkId) (w : Word) (s : State) (h : f.taken = f.expected) :
    storingData l w f s = abandonInto l .framing .draining s := by
  rw [storingData, if_pos h]

theorem discardingData_after {f : RxFrame} (l : LinkId) (w : Word) (s : State) (h : f.taken = f.expected) :
    discardingData l w f s = abandonInto l .framing .draining s := by
  rw [discardingData, if_pos h]

theorem discardingData_body {f : RxFrame} (l : LinkId) (w : Word) (s : State) (h : f.taken ≠ f.expected) :
    discardingData l w f s = setReception l (.discarding (f.bodyWord w)) s := by
  rw [discardingData, if_neg h]

/-! ## A completed group (R19) -/

theorem modifyLast_concat (f : FifoEntry → FifoEntry) (front : List FifoEntry) (e : FifoEntry) :
    modifyLast f (front ++ [e]) = front ++ [f e] := by
  induction front with
  | nil => rfl
  | cons x xs ih =>
    cases xs with
    | nil => rfl
    | cons y ys => exact congrArg (x :: ·) ih

/-- A receiver with a group added to its last frame. -/
theorem appendGroup_concat {r : Receiver} {front : List FifoEntry} {e : FifoEntry} (g : List Word)
    (h : r.fifo = front ++ [e]) : r.appendGroup g = { r with
      fifo := front ++ [{ e with groups := e.groups ++ [g] }]
      flow := if 48 ≤ fifoGroups r.fifo + 1 then .hold else r.flow } := by
  have hgroups : fifoGroups (front ++ [{ e with groups := e.groups ++ [g] }]) = fifoGroups r.fifo + 1 := by
    rw [h]
    simp [fifoGroups, Nat.add_assoc]
  rw [Receiver.appendGroup]
  rw [h, modifyLast_concat, hgroups, h]
  rfl

theorem completeGroup_stores {s : State} {l : LinkId} (f : RxFrame) (g : List Word)
    (h : fifoGroups (s.receivers.get l).fifo < 64) : completeGroup l f g s =
      engineChoose (s.onReceiver l (fun r =>
        Receiver.appendGroup g { r with reception := .storing { f with slopes := [] } })) := by
  rw [completeGroup]
  refine (if_pos h).trans ?_
  rw [setReception, onReceiver_onReceiver]

theorem completeGroup_overruns {s : State} {l : LinkId} (f : RxFrame) (g : List Word)
    (h : 64 ≤ fifoGroups (s.receivers.get l).fifo) : completeGroup l f g s = abandonInto l .overrun .draining s := by
  rw [completeGroup]
  exact if_neg (Nat.not_lt.mpr h)

/-- Settles O18: the words of a frame stored or discarded, its groups and its CRC. -/
theorem slopesStoredInGroups : Obligations.SlopesStoredInGroups := by
  refine ⟨RxFrame.expected_spec, fun _ => rfl, fun s l w window good f h hd => ⟨fun hf hin => ⟨fun hg => ?_,
    fun hg hbusy front e hfifo hroom => ?_, fun hg hfull => ?_⟩, fun hf hin => ?_, fun hlast => ⟨fun hf => ?_, fun hf => ?_⟩,
    fun _ => exec_valid (sym := .fill) h hd rfl rfl⟩, crcStep_eq_foldl⟩
  · rw [exec_valid (sym := .data w) h hd rfl rfl, receive, receiveData_storing (f := f) w (by simpa using hf),
      storingData_inGroup l w _ hin hg, setReception_withDecoder]
  · rw [exec_valid (sym := .data w) h hd rfl rfl, receive, receiveData_storing (f := f) w (by simpa using hf),
      storingData_completesGroup l w _ hin hg, completeGroup_stores _ _ (by simpa using hroom),
      withDecoder_onReceiver, engineChoose_settled (s.onReceiver l _) (.inl hbusy)]
    refine congrArg Host.Outcome.next (onReceiver_congr s l _ _ ?_)
    exact appendGroup_concat _ hfifo
  · refine abandonInto_abandonsStored s _ l _ _ .overrun f hf ?_
    rw [exec_valid (sym := .data w) h hd rfl rfl, receive, receiveData_storing (f := f) w (by simpa using hf),
      storingData_completesGroup l w _ hin hg, completeGroup_overruns _ _ (by simpa using hfull)]
    rfl
  · rw [exec_valid (sym := .data w) h hd rfl rfl, receive, receiveData_discarding (f := f) w (by simpa using hf),
      discardingData_body l w _ (by omega), setReception_withDecoder, bodyWord_inside w hin]
  · rw [exec_valid (sym := .data w) h hd rfl rfl, receive, receiveData_storing (f := f) w (by simpa using hf),
      storingData_last l w _ hlast, setReception_withDecoder]
  · rw [exec_valid (sym := .data w) h hd rfl rfl, receive, receiveData_discarding (f := f) w (by simpa using hf),
      discardingData_body l w _ (by omega), setReception_withDecoder, bodyWord_last w hlast]

/-! ## The engine takes the group (R23) -/

theorem takeGroup_eq {s : State} {l : LinkId} {e : FifoEntry} {rest : List FifoEntry} {g : List Word}
    {gs : List (List Word)} (hf : (s.receivers.get l).fifo = e :: rest) (hg : e.groups = g :: gs) : takeGroup l s =
      offerHead l ((s.onEngine (fun x => { x with
        inFlight := some (groupOperation s.stores.active s.command.actuatorCount l e.taken
          (slopeBase s.slots l + Config.groupSize * e.taken) g)
        pointer := l + 1 })).onReceiver l (Receiver.withFewer (takeOldest (e :: rest)))) := by
  rw [takeGroup, hf]
  dsimp only
  rw [hg]

theorem engineChoose_only {s : State} {l : LinkId} (h : s.engine.inFlight = none) (hl : isCandidate s l = true)
    (hothers : ∀ k, k ≠ l → isCandidate s k = false) : engineChoose s = takeGroup l s := by
  have hsum : s.engine.pointer + (l - s.engine.pointer) = l := add_sub_cancel _ _
  have hchoice : arbiterChoice s = some l := by
    have hfirst := arbiterChoice_first s (l - s.engine.pointer) (by rw [hsum]; exact hl)
      (fun m hm => hothers _ fun hml => hm.ne (add_left_cancel (hml.trans hsum.symm)))
    rwa [hsum] at hfirst
  rw [engineChoose, h]
  dsimp only
  rw [hchoice]

/-- Settles O19: the group completed is the only candidate, and its frame stays the attached head. -/
theorem completedGroupIsTaken : Obligations.CompletedGroupIsTaken := by
  intro s l w window good f e r h hd hf hin hg hidle hfifo ha hv hgroups hr hacc hothers
  have hempty : fifoGroups (s.receivers.get l).fifo = 0 := by simp [hfifo, fifoGroups, hgroups]
  have hrun : exec (.linkDataSymbol l w) s = .next (completeGroup l
      { f with taken := f.taken + 1, crc := crcStep f.crc w } (f.slopes ++ [w])
      (s.withDecoder l (.locked ((false :: window).take 16) good))) := by
    rw [exec_valid (sym := .data w) h hd rfl rfl, receive, receiveData_storing (f := f) w (by simpa using hf),
      storingData_completesGroup l w _ hin hg]
  rw [completeGroup_stores _ _ (by simp [hempty]), withDecoder_onReceiver] at hrun
  set e' : FifoEntry := { e with groups := [f.slopes ++ [w]] } with he'
  have hlen : (f.slopes ++ [w]).length = 32 := by simp [hg]
  generalize hF : (fun r : Receiver => Receiver.appendGroup (f.slopes ++ [w]) _) = F at hrun
  have hFfifo : (F (s.receivers.get l)).fifo = [e'] := by
    rw [← hF]
    refine (congrArg Receiver.fifo (appendGroup_concat (front := []) (e := e) _ ?_)).trans ?_
    · exact hfifo
    · simp [he', hgroups]
  have hfifo' : ((s.onReceiver l F).receivers.get l).fifo = e' :: [] := by
    rw [State.onReceiver_receivers, quadModify_get_self, hFfifo]
  have hcandidate : isCandidate (s.onReceiver l F) l = true :=
    (isCandidate_iff _ _).mpr ⟨r, e', [], hr, hacc, hfifo', ha, by simp [he']⟩
  have hothers' : ∀ k, k ≠ l → isCandidate (s.onReceiver l F) k = false := by
    intro k hk
    rw [← hothers k hk]
    simp [isCandidate, quadModify_get_ne _ _ hk]
  rw [engineChoose_only (s := s.onReceiver l F) hidle hcandidate hothers', takeGroup_eq (e := e') (g := f.slopes ++ [w]) (gs := []) hfifo' rfl]
    at hrun
  have holdest : takeOldest (e' :: []) = [{ e with taken := e.taken + 1 }] := by
    simp [takeOldest, he', hv, hgroups]
  rw [holdest] at hrun
  have hspec := groupOperation_spec s.stores.active s.command.actuatorCount l e.taken (slopeBase s.slots l + 32 * e.taken)
    (f.slopes ++ [w]) hlen
  obtain ⟨hlength, hresiduals, hsums, hzero⟩ := hspec
  set o := groupOperation s.stores.active s.command.actuatorCount l e.taken (slopeBase s.slots l + 32 * e.taken)
    (f.slopes ++ [w]) with ho
  have hoffer : ∀ v : State, (v.receivers.get l).fifo = [{ e with taken := e.taken + 1 }] → offerHead l v = v :=
    fun v hfv => offerHead_attachedHead hfv ha
  rw [hoffer _ (by rw [State.onReceiver_receivers, quadModify_get_self]; rfl)] at hrun
  refine ⟨_, o, hrun, rfl, rfl, rfl, rfl, rfl, hlength, hresiduals, hsums, hzero, rfl, ?_, rfl, rfl, rfl, rfl, rfl, rfl, rfl⟩
  rw [State.onReceiver_receivers, quadModify_get_self]
  rfl

/-! ## The symbols that abandon a body (R20) -/

/-- A body that a symbol abandons, with the decoder's mark. -/
theorem exec_abandons {s : State} {l : LinkId} {w : Word} {window marks : List Bool} {good : Bool} {f : RxFrame}
    {c : Instr} {next : Reception} {count : ReceiverCounters → ReceiverCounters} (h : s.resetActs = false)
    (hd : (s.receivers.get l).decoder = .locked window good)
    (hf : (s.receivers.get l).reception = .storing f ∨ (s.receivers.get l).reception = .discarding f)
    (hc : (c = .linkEndSymbol l ∧ f.taken = f.expected ∧ f.crc ≠ f.crcWord ∧ next = .between ∧
        marks = (false :: window).take 16 ∧ count = fun x => { x with crc := Counter.increase x.crc }) ∨
      (count = (fun x => { x with framing := Counter.increase x.framing }) ∧
        ((c = .linkEndSymbol l ∧ f.taken ≠ f.expected ∧ next = .between ∧ marks = (false :: window).take 16) ∨
          (c = .linkDataSymbol l w ∧ f.taken = f.expected ∧ next = .draining ∧ marks = (false :: window).take 16) ∨
          (c = .linkStartSymbol l ∧ marks = (false :: window).take 16 ∧ next = beginFrame (s.slots.get l)) ∨
          (c = .linkInvalidSymbol l ∧ ((true :: window).take 16).count true < 4 ∧ next = .draining ∧
            marks = (true :: window).take 16)))) :
    ∃ cause, exec c s = .next (abandonInto l cause next (s.withDecoder l (.locked marks good))) ∧
      count = ReceiverCounters.abandon cause := by
  rcases hc with ⟨rfl, ht, hcrc, rfl, rfl, rfl⟩ | ⟨rfl, hc⟩
  · refine ⟨.crc, ?_, rfl⟩
    rw [exec_valid (sym := .fin) h hd rfl rfl, receive, receiveEnd]
    rcases hf with hf | hf <;> simp only [State.withDecoder_receiver, hf]
    · rw [storingEnd, if_neg (not_not.mpr ht), if_pos hcrc]
    · rw [discardingEnd, if_neg (not_not.mpr ht), if_pos hcrc]
  · refine ⟨.framing, ?_, rfl⟩
    rcases hc with ⟨rfl, ht, rfl, rfl⟩ | ⟨rfl, ht, rfl, rfl⟩ | ⟨rfl, rfl, rfl⟩ | ⟨rfl, hn, rfl, rfl⟩
    · rw [exec_valid (sym := .fin) h hd rfl rfl, receive, receiveEnd]
      rcases hf with hf | hf <;> simp only [State.withDecoder_receiver, hf]
      · rw [storingEnd, if_pos ht]
      · rw [discardingEnd, if_pos ht]
    · rw [exec_valid (sym := .data w) h hd rfl rfl, receive]
      rcases hf with hf | hf
      · rw [receiveData_storing (f := f) w (by simpa using hf), storingData_after l w _ ht]
      · rw [receiveData_discarding (f := f) w (by simpa using hf), discardingData_after l w _ ht]
    · rw [exec_valid (sym := .start) h hd rfl rfl]
      rfl
    · rw [exec_invalid h hd hn, receiveInvalid]
      rcases hf with hf | hf <;> simp only [State.withDecoder_receiver, hf]

/-- Settles O21: a body abandoned is counted, and what was stored of it removed. -/
theorem crcMismatchAbandons : Obligations.CrcMismatchAbandons := by
  intro s l w window marks good f c next count h hd hc
  refine ⟨fun hf => ?_, fun hf => ?_⟩
  · obtain ⟨cause, hrun, rfl⟩ := exec_abandons (w := w) h hd (.inr hf) hc
    rw [hrun, abandonInto_counts_withDecoder _ _ _ (.inr hf)]
  · obtain ⟨cause, hrun, rfl⟩ := exec_abandons (w := w) h hd (.inl hf) hc
    exact abandonInto_abandonsStored s c l _ next cause f hf hrun

/-! ## The loss of lock (R14) -/

theorem exec_losesLock {s : State} {l : LinkId} {window : List Bool} {good : Bool} (h : s.resetActs = false)
    (hd : (s.receivers.get l).decoder = .locked window good) (hn : 4 ≤ ((true :: window).take 16).count true) :
    exec (.linkInvalidSymbol l) s = .next (loseLock l s) := by
  have hloses : losesLock true window = true := by
    rw [losesLock, Bool.true_and]
    exact decide_eq_true hn
  rw [exec_symbol (sym := .invalid) h rfl, linkSymbol, hd]
  simp only [LinkSymbol.isInvalid, hloses, if_true]

theorem abandonInto_stored {s : State} {l : LinkId} {f : RxFrame} (cause : AbandonCause) (next : Reception)
    (h : (s.receivers.get l).reception = .storing f) : abandonInto l cause next s =
      removeStored l (s.onReceiver l (fun r =>
        { r with reception := next, counters := r.counters.abandon cause })) := by
  rw [abandonInto, h]
  dsimp only
  rw [setReception, onReceiver_onReceiver]
  rfl

/-- The state in which the frame of a link is counted as lost with the lock. -/
def State.lockLost (s : State) (l : LinkId) : State :=
  s.onReceiver l (fun r => { r with reception := .off, counters := r.counters.abandon .lock })

theorem lockLost_receiver (s : State) (l : LinkId) : (s.lockLost l).receivers.get l =
    { s.receivers.get l with reception := .off, counters := (s.receivers.get l).counters.abandon .lock } :=
  quadModify_get_self _ _ _

theorem loseLock_stored {s : State} {l : LinkId} {f : RxFrame} (h : (s.receivers.get l).reception = .storing f) :
    loseLock l s = ((removeStored l (s.lockLost l)).onReceiver l (fun r => { r with decoder := .unlocked 0 })).post
      (.linkChange l .down) := by
  rw [loseLock, abandonInto_stored _ _ h]
  rfl

/-- Settles O22: the lock lost outside a frame, in a header or a discarded frame, and in a stored frame. -/
theorem fourthInvalidLosesLock : Obligations.FourthInvalidLosesLock := by
  intro s l window good h hd hn
  have hrun := exec_losesLock h hd hn
  refine ⟨fun hout => ?_, fun f hf => ?_, fun f hf => ⟨fun front e hfifo ha hset => ?_, ?_⟩⟩
  · rw [hrun, loseLock, abandonInto_silent _ _ hout, setReception, onReceiver_onReceiver]
  · rw [hrun, loseLock, abandonInto_counts (f := f) _ _ hf, onReceiver_onReceiver]
    rfl
  · have hqueued := removeStored_queued l s (s.lockLost l) front e hset rfl rfl rfl
      (fun k hk => by simp [State.lockLost, quadModify_get_ne _ _ hk]) (by simp [lockLost_receiver]) hfifo ha
    rw [hrun, loseLock_stored hf, hqueued, State.lockLost, onReceiver_onReceiver, onReceiver_onReceiver]
    rfl
  · rw [loseLock_stored hf] at hrun
    have hview := removeStored_reception l l (s.lockLost l)
    simp only [receptionView, lockLost_receiver, Prod.mk.injEq] at hview
    obtain ⟨-, hreception, -, hlastGood, -, hcounters⟩ := hview
    have hattached := fun front e o v g r hf' ha hs ho hst hr hdis =>
      removeStored_attached l (s.lockLost l) front e o v g r hf' ha hs ho hst hr hdis
    generalize removeStored l (s.lockLost l) = u at *
    have hreceiver : (((u.onReceiver l (fun r => { r with decoder := .unlocked 0 })).post
        (.linkChange l .down)).receivers.get l) = { u.receivers.get l with decoder := .unlocked 0 } :=
      quadModify_get_self _ _ _
    refine ⟨_, hrun, ?_, ?_, ?_, ?_, fun front e o v g r hfifo ha hs ho hst hr hdis => ?_⟩
    · rw [hreceiver]
      exact hreception
    · rw [hreceiver]
    · rw [hreceiver]
      exact hcounters
    · rw [hreceiver]
      exact hlastGood
    · obtain ⟨hports, hrest, hfresh, -, hrecord, hflight, hcycle, htime, hstatus⟩ :=
        hattached front e o v g r (by simp [lockLost_receiver, hfifo]) ha hs ho hst hr hdis
      refine ⟨post_ports_congr _ hports hcycle htime, fun hnil => ?_, fun a => ?_, hrecord, hflight, ?_⟩
      · rw [hreceiver, hrest, hnil]
        rfl
      · rw [State.post_engine, State.onReceiver_engine, hfresh]
        rfl
      · rw [statusOf] at hstatus
        split at hstatus
        · cases hstatus
        · next o' ho' => exact ⟨o', ho', hstatus⟩

end Sys2Proof.Machine

/-!
SUPPORT. The telemetry link's symbols, and the phases of a writeout at the mirror boards.
-/
namespace Sys2Proof.Machine

/-! ## The telemetry link (R37) -/

theorem exec_symbolSent {s : State} {t u : CaptureUnit} (h : s.resetActs = false) (ht : s.capture.finishSymbol = t)
    (hu : t.chooseSymbol = u) : exec .telemetrySymbolSent s = .next { s with capture := u } := by
  rw [exec_running _ h, ← hu, ← ht]
  rfl

theorem finishSymbol_idle {c : CaptureUnit} (h : c.sender = .idle) : c.finishSymbol = c := by
  rw [CaptureUnit.finishSymbol, h]

theorem finishSymbol_notWord {c : CaptureUnit} (h : ∀ w, c.symbol ≠ .word w) : c.finishSymbol = c := by
  rw [CaptureUnit.finishSymbol]
  split
  · next hw => exact absurd hw (h _)
  · rfl

theorem finishSymbol_notSending {c : CaptureUnit} {crc : Word} {x : SenderNext} (h : c.sender = .sending crc x)
    (hx : x ≠ .word) : c.finishSymbol = c := by
  rw [CaptureUnit.finishSymbol, h]
  split
  · next hs _ => exact absurd (Sender.sending.inj hs).2 hx
  · rfl

theorem finishSymbol_word {c : CaptureUnit} {crc w : Word} (h : c.sender = .sending crc .word) (hw : c.symbol = .word w) :
    c.finishSymbol = { c with
      fifo := sendWord c.fifo
      sender := .sending (crcStep crc w) (if lastWord c.fifo then .crc else .word) } := by
  rw [CaptureUnit.finishSymbol, h, hw]

theorem chooseSymbol_hold {c : CaptureUnit} (h : c.flow = .hold) : c.chooseSymbol = { c with symbol := .fill } := by
  rw [CaptureUnit.chooseSymbol, h]

theorem chooseSymbol_empty {c : CaptureUnit} (h : c.sender = .idle) (he : c.fifo = []) :
    c.chooseSymbol = { c with symbol := .fill } := by
  rw [CaptureUnit.chooseSymbol, h, he]
  cases c.flow <;> rfl

theorem chooseSymbol_start {c : CaptureUnit} (h : c.sender = .idle) (hf : c.flow = .go) (he : c.fifo ≠ []) :
    c.chooseSymbol = { c with symbol := .start, sender := .sending crcInit .word } := by
  rw [CaptureUnit.chooseSymbol, hf, h]
  dsimp only
  rw [if_neg (by simpa using he)]

theorem chooseSymbol_word {c : CaptureUnit} {crc : Word} (hf : c.flow = .go) (h : c.sender = .sending crc .word) :
    c.chooseSymbol = { c with symbol := .word (nextWord c.fifo) } := by
  rw [CaptureUnit.chooseSymbol, hf, h]

theorem chooseSymbol_crc {c : CaptureUnit} {crc : Word} (hf : c.flow = .go) (h : c.sender = .sending crc .crc) :
    c.chooseSymbol = { c with symbol := .crc crc, sender := .sending crc .fin } := by
  rw [CaptureUnit.chooseSymbol, hf, h]

theorem chooseSymbol_fin {c : CaptureUnit} {crc : Word} (hf : c.flow = .go) (h : c.sender = .sending crc .fin) :
    c.chooseSymbol = { c with symbol := .fin, sender := .idle } := by
  rw [CaptureUnit.chooseSymbol, hf, h]

/-- Settles O35: what the sender finishes and what it chooses next, by its phase and the flow signal. -/
theorem telemetrySymbols : Obligations.TelemetrySymbols := by
  intro s h
  refine ⟨exec_running _ h, exec_running _ h, fun hidle hempty => ?_, fun hidle hgo hfifo => ?_,
    fun crc w ws rest hsend hsym hgo hfifo => ?_, fun crc w v ws rest hsend hsym hfifo => ?_,
    fun crc w rest hsend hsym hgo hfifo => ?_, fun crc w rest hsend hsym hhold hfifo => ?_, fun crc hsend hgo => ?_,
    fun crc x hsend hx hhold => ?_, fun crc hsend hgo => ?_⟩
  · rcases hempty with hhold | hempty
    · exact exec_symbolSent h (finishSymbol_idle hidle) (chooseSymbol_hold hhold)
    · exact exec_symbolSent h (finishSymbol_idle hidle) (chooseSymbol_empty hidle hempty)
  · exact exec_symbolSent h (finishSymbol_idle hidle) (chooseSymbol_start hidle hgo hfifo)
  · have hfinish : s.capture.finishSymbol = s.capture :=
      finishSymbol_notWord fun v hv => by rcases hsym with hs | hs <;> rw [hs] at hv <;> cases hv
    have hnext : nextWord s.capture.fifo = w := by rw [hfifo, nextWord]
    exact hnext ▸ exec_symbolSent h hfinish (chooseSymbol_word hgo hsend)
  · refine exec_symbolSent h (finishSymbol_word hsend hsym) ?_
    simp only [hfifo, sendWord, lastWord, List.tail_cons, List.isEmpty_cons, Bool.false_eq_true, if_false]
    cases hflow : s.capture.flow
    · exact chooseSymbol_word rfl rfl
    · exact chooseSymbol_hold rfl
  · refine exec_symbolSent h (finishSymbol_word hsend hsym) ?_
    simp only [hfifo, sendWord, lastWord, List.tail_cons, List.isEmpty_nil, if_true]
    exact chooseSymbol_crc hgo rfl
  · refine exec_symbolSent h (finishSymbol_word hsend hsym) ?_
    simp only [hfifo, sendWord, lastWord, List.tail_cons, List.isEmpty_nil, if_true]
    exact chooseSymbol_hold hhold
  · exact exec_symbolSent h (finishSymbol_notSending hsend (by simp)) (chooseSymbol_crc hgo hsend)
  · have hfinish : s.capture.finishSymbol = s.capture := by
      rcases hx with hx | hx
      · exact finishSymbol_notSending hsend hx
      · exact finishSymbol_notWord hx
    exact exec_symbolSent h hfinish (chooseSymbol_hold hhold)
  · exact exec_symbolSent h (finishSymbol_notSending hsend (by simp)) (chooseSymbol_fin hgo hsend)

/-! ## The phases of a writeout (R34) -/

theorem exec_onMirror {s : State} {c : Instr} {f : MirrorLink → MirrorLink} {m : MirrorLink} (h : s.resetActs = false)
    (hc : whenRunning c s = s.onMirror f) (hm : f s.mirror = m) : exec c s = .next { s with mirror := m } := by
  rw [exec_running c h, hc, ← hm]
  rfl

theorem addressSent_addressing {m : MirrorLink} {w : Writeout} (h : m.activity = .writing w .addressing) :
    addressSent m = { m with activity := .writing w (.waitReady m.settings.readyTimeout), line := [] } := by
  rw [addressSent, h]

theorem boardReady_waiting {m : MirrorLink} {w : Writeout} {r : BitVec 16} (h : m.activity = .writing w (.waitReady r)) :
    boardReady m = { m with activity := .writing w .sending, line := blockSymbols w.vector w.board } := by
  rw [boardReady, h]

theorem boardReady_otherwise {m : MirrorLink} (h : ∀ w r, m.activity ≠ .writing w (.waitReady r)) : boardReady m = m := by
  rw [boardReady]
  split
  · next hw => exact absurd hw (h _ _)
  · rfl

theorem boardBusy_extends {m : MirrorLink} {w : Writeout} {r : BitVec 16} (h : m.activity = .writing w (.waitReady r))
    (hw : w.extensions < 7) : boardBusy m = { m with
      activity := .writing { w with extensions := w.extensions + 1 } (.waitReady m.settings.readyTimeout) } := by
  rw [boardBusy, h]
  exact if_pos hw

theorem boardBusy_exhausted {m : MirrorLink} {w : Writeout} {r : BitVec 16} (h : m.activity = .writing w (.waitReady r))
    (hw : 7 ≤ w.extensions) : boardBusy m = m := by
  rw [boardBusy, h]
  exact if_neg (Nat.not_lt.mpr hw)

theorem boardBusy_otherwise {m : MirrorLink} (h : ∀ w r, m.activity ≠ .writing w (.waitReady r)) : boardBusy m = m := by
  rw [boardBusy]
  split
  · next hw => exact absurd hw (h _ _)
  · rfl

theorem blockSent_sending {m : MirrorLink} {w : Writeout} (h : m.activity = .writing w .sending) :
    blockSent m = { m with activity := .writing w (.waitAck m.settings.ackTimeout), line := [] } := by
  rw [blockSent, h]

theorem boardAnswer_otherwise {s : State} (o : BoardOutcome) (h : ∀ w r, s.mirror.activity ≠ .writing w (.waitAck r)) :
    boardAnswer o s = s := by
  rw [boardAnswer]
  split
  · next hw => exact absurd hw (h _ _)
  · rfl

theorem blockSymbols_eq (v : DriveVector) (b : BoardId) {ws : List Word}
    (h : ws = [0x0001, v.cycle.extractLsb' 0 16] ++ (List.range 128).map (fun i => v.values.at (128 * b.val + i))) :
    blockSymbols v b = [.command] ++ ws.map .word ++ [.word (ws.foldl crcStep 0xFFFF), .fin] := by
  have hws : checkedWords v b = ws := h.symm
  rw [blockSymbols, hws, crcOf, List.map_append]
  simp [crcInit]

theorem gapEnd_due {m : MirrorLink} {w : Writeout} (h : m.activity = .writing w (.gap 0)) : gapEnd m = endGap w m := by
  rw [gapEnd, h]
  rfl

/-- The next board of a writeout is addressed. -/
theorem endGap_more {w : Writeout} (m : MirrorLink) (h : w.board.val + 1 < w.vector.count / 128) : endGap w m = { m with
      activity := .writing { w with board := w.board + 1, extensions := 0 } .addressing
      line := [.address, .word (BitVec.ofNat 16 (w.board + 1).val)] } := by
  rw [endGap]
  exact if_pos h

/-- The last board of a writeout with no vector waiting. -/
theorem endGap_last {w : Writeout} {m : MirrorLink} (h : w.vector.count / 128 ≤ w.board.val + 1)
    (hp : m.pendingVector = none) : endGap w m = { m with
      activity := .idle
      line := []
      latest := some { cycle := w.vector.cycle, outcomes := w.outcomes, skipped := false }
      counters := { m.counters with sent := Counter.increase m.counters.sent } } := by
  rw [endGap]
  refine (if_neg (Nat.not_lt.mpr h)).trans ?_
  rw [endWriteout, hp]
  rfl

/-- The last board of a writeout with a vector waiting: its writeout starts. -/
theorem endGap_starts {w : Writeout} {m : MirrorLink} {v : DriveVector} (h : w.vector.count / 128 ≤ w.board.val + 1)
    (hp : m.pendingVector = some v) : endGap w m = { m with
      activity := .writing { vector := v, board := 0, extensions := 0, outcomes := Octet.fill .notWritten } .addressing
      line := [.address, .word 0]
      pendingVector := none
      latest := some { cycle := w.vector.cycle, outcomes := w.outcomes, skipped := false }
      counters := { m.counters with sent := Counter.increase m.counters.sent } } := by
  rw [endGap]
  refine (if_neg (Nat.not_lt.mpr h)).trans ?_
  rw [endWriteout, hp]
  rfl

/-- Settles O32: one board after the other, each addressed, waited for, sent its block and waited for again. -/
theorem writeoutPhases : Obligations.WriteoutPhases := by
  intro s w h
  refine ⟨fun ha => exec_onMirror h rfl (addressSent_addressing ha),
    fun r hr => ⟨fun ws hws => ?_, fun hw => exec_onMirror h rfl (boardBusy_extends hr hw),
      fun hw => exec_onMirror h rfl (boardBusy_exhausted hr hw)⟩,
    fun ha => exec_onMirror h rfl (blockSent_sending ha), fun hg => ⟨fun hb => ?_, fun hb hp => ?_, fun hb v hp => ?_⟩,
    fun hr => ⟨exec_onMirror h rfl (boardReady_otherwise hr), exec_onMirror h rfl (boardBusy_otherwise hr)⟩, fun hr => ?_⟩
  · rw [← blockSymbols_eq w.vector w.board hws]
    exact exec_onMirror h rfl (boardReady_waiting hr)
  · exact exec_onMirror h rfl ((gapEnd_due hg).trans (endGap_more _ hb))
  · exact exec_onMirror h rfl ((gapEnd_due hg).trans (endGap_last hb hp))
  · exact exec_onMirror h rfl ((gapEnd_due hg).trans (endGap_starts hb hp))
  · rw [exec_running _ h, exec_running _ h]
    exact ⟨congrArg _ (boardAnswer_otherwise .acked hr), congrArg _ (boardAnswer_otherwise .naked hr)⟩

end Sys2Proof.Machine

/-!
SUPPORT. The outcome of a board: what it records, when it posts an event, and when it requests a trip (R34, R39).
-/
namespace Sys2Proof.Machine

/-! ## A trip, by the state of the cycle manager (R39) -/

theorem requestTrip_open {s : State} (c : TripCause) (h : s.cycleIsOpen = true) :
    requestTrip c s = requestTrip.holdTrip c s := by
  rcases (cycleIsOpen_iff s).mp h with hm | hm <;> rw [requestTrip, hm]

theorem requestTrip_armed {s : State} (c : TripCause) (h : s.manager.state = .armed) :
    requestTrip c s = takeTrip { cause := c, additional := 0 } s := by
  rw [requestTrip, h]

theorem holdTrip_more {s : State} {d : PendingTrip} (c : TripCause) (h : s.loop.trip = some d) :
    requestTrip.holdTrip c s = s.onLoop (fun x => { x with
      trip := some { d with additional := if d.additional < 255 then d.additional + 1 else d.additional } }) := by
  rw [requestTrip.holdTrip, h]
  rfl

theorem holdTrip_first {s : State} (c : TripCause) (h : s.loop.trip = none) :
    requestTrip.holdTrip c s =
      (withdrawRequest .tripped none s).onLoop (fun x => { x with trip := some { cause := c, additional := 0 } }) := by
  rw [requestTrip.holdTrip, h]

theorem withdrawRequest_loop_eq (s : State) (r : Reason) (q : Option PortId) :
    (withdrawRequest r q s).loop = { s.loop with request := none } := by
  cases h : s.loop.request with
  | none =>
    rw [withdrawRequest_none _ _ h, ← h]
  | some x =>
    rw [withdrawRequest_some _ _ h]
    rfl

theorem takeTrip_closed {s : State} (t : PendingTrip) (h : s.loop.loop = .closed) :
    takeTrip t s = (s.onLoop (fun c => { c with
      loop := .frozen
      trip := none
      lastTrip := some { cause := t.cause, additional := t.additional, cycle := s.manager.cycle,
                         time := s.manager.timebase, before := .closed } })).post
      (.loopChange .closed .frozen (.trip t.cause t.additional)) := by
  rw [takeTrip, if_pos h]

/-! ## Events already posted stay queued -/

theorem post_queue_mem {s : State} {e : EventRecord} {q : PortId} (x : EventSubject) (h : e ∈ (s.ports.get q).queue) :
    e ∈ ((s.post x).ports.get q).queue := by
  rw [State.post_ports, Pair.get_map, Port.takeEvent]
  split
  · exact List.mem_append_left _ h
  · exact h

theorem post_queue_new {s : State} {q : PortId} (x : EventSubject) (h : (s.ports.get q).queue.length < 16) :
    ⟨x, s.manager.cycle, s.manager.timebase⟩ ∈ ((s.post x).ports.get q).queue := by
  rw [State.post_ports, Pair.get_map, takeEvent_queues _ h]
  exact List.mem_append_right _ (List.mem_singleton_self _)

theorem answer_queue (s : State) (p q : PortId) (r : ResultRecord) :
    ((s.answer p r).ports.get q).queue = (s.ports.get q).queue := by
  by_cases h : q = p
  · subst h
    simp [State.answer]
  · simp [State.answer, Pair.get_set_ne _ _ h]

theorem withdrawRequest_queue (s : State) (r : Reason) (x : Option PortId) (q : PortId) :
    ((withdrawRequest r x s).ports.get q).queue = (s.ports.get q).queue := by
  cases h : s.loop.request with
  | none => rw [withdrawRequest_none _ _ h]
  | some y =>
    rw [withdrawRequest_some _ _ h]
    exact answer_queue _ _ _ _

theorem requestTrip_queue_mem {s : State} {e : EventRecord} {q : PortId} (c : TripCause)
    (h : e ∈ (s.ports.get q).queue) : e ∈ ((requestTrip c s).ports.get q).queue := by
  have hhold : e ∈ ((requestTrip.holdTrip c s).ports.get q).queue := by
    cases ht : s.loop.trip with
    | some d => rwa [holdTrip_more c ht]
    | none =>
      rw [holdTrip_first c ht]
      exact (withdrawRequest_queue s _ _ q).symm ▸ h
  have htake : e ∈ ((takeTrip { cause := c, additional := 0 } s).ports.get q).queue := by
    rw [takeTrip]
    split
    · exact post_queue_mem _ h
    · exact h
  rw [requestTrip]
  cases s.manager.state
  · exact h
  · exact htake
  · exact hhold
  · exact hhold

/-! ## What a change of a board posts (R34) -/

theorem boardChanges_eq_false {b c : Board} : boardChanges b c = false ↔ (b.state = .faulted ↔ c.state = .faulted) := by
  rw [boardChanges]
  cases b.state <;> cases c.state <;> decide

theorem reportBoard_same {b c : Board} (i : BoardId) (s : State) (h : b.state = .faulted ↔ c.state = .faulted) :
    reportBoard i b c s = s := by
  rw [reportBoard, boardChanges_eq_false.mpr h]
  rfl

theorem reportBoard_changed {b c : Board} (i : BoardId) (s : State) (h : ¬(b.state = .faulted ↔ c.state = .faulted)) :
    reportBoard i b c s = if c.state = .faulted ∧ s.loop.loop = .closed then
      requestTrip (.board i) (s.post (.boardChange i c.state c.faults)) else s.post (.boardChange i c.state c.faults) := by
  rw [reportBoard, (Bool.eq_true_of_not_eq_false fun hc => h (boardChanges_eq_false.mp hc) : boardChanges b c = true)]
  rfl

/-! ## The outcome of a board -/

/-- The mirror link with the outcome of the addressed board recorded. -/
theorem takeOutcome_mirror (w : Writeout) (o : BoardOutcome) (s : State) : (takeOutcome w o s).mirror =
    enterGap { w with outcomes := w.outcomes.set w.board o } (recordOutcome w o s.mirror) := by
  rw [takeOutcome, State.onMirror]
  obtain ⟨-, -, -, -, -, -, -, -, -, -, hmirror, -⟩ := reportBoard_keeps w.board (s.mirror.boards.get w.board)
    ((s.onMirror (recordOutcome w o)).mirror.boards.get w.board) (s.onMirror (recordOutcome w o))
  exact congrArg (enterGap _) hmirror

theorem takeOutcome_frame (w : Writeout) (o : BoardOutcome) (s : State) :
    (takeOutcome w o s).manager = s.manager ∧ (takeOutcome w o s).command = s.command ∧
      (takeOutcome w o s).stores = s.stores ∧ (takeOutcome w o s).engine = s.engine ∧
      (takeOutcome w o s).receivers = s.receivers ∧ (takeOutcome w o s).slots = s.slots := by
  obtain ⟨-, -, -, hmanager, hreceivers, hslots, hengine, hstores, hcommand, -⟩ :=
    reportBoard_keeps w.board (s.mirror.boards.get w.board)
      ((s.onMirror (recordOutcome w o)).mirror.boards.get w.board) (s.onMirror (recordOutcome w o))
  exact ⟨hmanager, hcommand, hstores, hengine, hreceivers, hslots⟩

/-- The addressed board after an outcome. -/
def State.boardAfter (s : State) (w : Writeout) (o : BoardOutcome) : Board :=
  (s.mirror.boards.get w.board).after s.mirror.settings.faultLimit o

/-- The ports and the loop after an outcome are those of the report on the state with the outcome recorded. -/
theorem takeOutcome_report (w : Writeout) (o : BoardOutcome) (s : State) :
    ∃ u : State, u = s.onMirror (recordOutcome w o) ∧
      (takeOutcome w o s).ports =
        (reportBoard w.board (s.mirror.boards.get w.board) (s.boardAfter w o) u).ports ∧
      (takeOutcome w o s).loop =
        (reportBoard w.board (s.mirror.boards.get w.board) (s.boardAfter w o) u).loop := by
  have hafter : (s.onMirror (recordOutcome w o)).mirror.boards.get w.board = s.boardAfter w o := Octet.get_set_self _ _ _
  refine ⟨_, rfl, ?_, ?_⟩ <;> rw [takeOutcome, hafter] <;> rfl

theorem enterGap_keeps (w : Writeout) (m : MirrorLink) : (enterGap w m).boards = m.boards ∧
    (enterGap w m).counters.boards = m.counters.boards ∧ (enterGap w m).settings = m.settings ∧
    (enterGap w m).held = m.held := by
  rw [enterGap, endGap, endWriteout]
  split
  · split
    · exact ⟨rfl, rfl, rfl, rfl⟩
    · cases m.pendingVector <;> exact ⟨rfl, rfl, rfl, rfl⟩
  · exact ⟨rfl, rfl, rfl, rfl⟩

theorem enterGap_none (w : Writeout) {m : MirrorLink} (h : m.settings.gap = 0) : enterGap w m = endGap w m := by
  rw [enterGap, if_pos h]

theorem enterGap_some (w : Writeout) {m : MirrorLink} (h : m.settings.gap ≠ 0) :
    enterGap w m = { m with activity := .writing w (.gap (m.settings.gap.setWidth 16)), line := [] } := by
  rw [enterGap, if_neg h]

theorem boardFail_faults (limit : Nat) (b : Board) :
    (b.fail limit).faults = if b.faults < 255 then b.faults + 1 else b.faults := rfl

theorem boardFail_state (limit : Nat) (b : Board) :
    (b.fail limit).state = if limit ≤ (b.fail limit).faults then .faulted else b.state := by
  rw [Board.fail]
  dsimp only
  by_cases hl : limit ≤ moreFaults b.faults
  · rw [if_pos hl]
    by_cases hs : b.state = .faulted
    · rw [if_neg (fun h => h.1 hs), hs]
    · rw [if_pos ⟨hs, hl⟩]
  · rw [if_neg hl, if_neg (fun h => hl h.2)]

theorem boardAfter_fails {o : BoardOutcome} (limit : Nat) (b : Board) (h : o = .naked ∨ o = .noAck ∨ o = .noReady) :
    b.after limit o = b.fail limit := by
  rcases h with rfl | rfl | rfl <;> rfl

/-- The four commands that end the wait for a board, with the outcome each gives. -/
def OutcomeEvent (s : State) (w : Writeout) (c : Instr) (x : BoardOutcome) : Prop :=
  (c = .boardAck ∧ x = .acked ∧ ∃ r, s.mirror.activity = .writing w (.waitAck r)) ∨
    (c = .boardNak ∧ x = .naked ∧ ∃ r, s.mirror.activity = .writing w (.waitAck r)) ∨
    (c = .ackTimeout ∧ x = .noAck ∧ s.mirror.activity = .writing w (.waitAck 0)) ∨
    (c = .readyTimeout ∧ x = .noReady ∧ s.mirror.activity = .writing w (.waitReady 0))

theorem exec_outcome {s : State} {w : Writeout} {c : Instr} {x : BoardOutcome} (h : s.resetActs = false)
    (hc : OutcomeEvent s w c x) :
    exec c s = .next (takeOutcome w x s) := by
  rw [exec_running c h]
  refine congrArg _ ?_
  rcases hc with ⟨rfl, rfl, r, hr⟩ | ⟨rfl, rfl, r, hr⟩ | ⟨rfl, rfl, hr⟩ | ⟨rfl, rfl, hr⟩
  · rw [whenRunning, boardAnswer, hr]
  · rw [whenRunning, boardAnswer, hr]
  · rw [whenRunning, ackTimeout, hr]
    rfl
  · rw [whenRunning, readyTimeout, hr]
    rfl

theorem outcome_cases {s : State} {w : Writeout} {c : Instr} {x : BoardOutcome}
    (hc : OutcomeEvent s w c x) :
    x = .acked ∨ x = .naked ∨ x = .noAck ∨ x = .noReady := by
  rcases hc with ⟨-, hx, -⟩ | ⟨-, hx, -⟩ | ⟨-, hx, -⟩ | ⟨-, hx, -⟩
  · exact .inl hx
  · exact .inr (.inl hx)
  · exact .inr (.inr (.inl hx))
  · exact .inr (.inr (.inr hx))

/-- The board of a writeout and its counters after an outcome; those of the other boards are kept. -/
theorem takeOutcome_boards (w : Writeout) (o : BoardOutcome) (s : State) :
    (takeOutcome w o s).mirror.boards.get w.board = s.boardAfter w o ∧
      (takeOutcome w o s).mirror.counters.boards.get w.board = (s.mirror.counters.boards.get w.board).tally o ∧
      (∀ b, b ≠ w.board → (takeOutcome w o s).mirror.boards.get b = s.mirror.boards.get b ∧
        (takeOutcome w o s).mirror.counters.boards.get b = s.mirror.counters.boards.get b) ∧
      (takeOutcome w o s).mirror.settings = s.mirror.settings ∧ (takeOutcome w o s).mirror.held = s.mirror.held := by
  rw [takeOutcome_mirror]
  obtain ⟨hboards, hcounters, hsettings, hheld⟩ :=
    enterGap_keeps { w with outcomes := w.outcomes.set w.board o } (recordOutcome w o s.mirror)
  rw [hboards, hcounters]
  exact ⟨Octet.get_set_self _ _ _, Octet.get_set_self _ _ _,
    fun b hb => ⟨Octet.get_set_ne _ _ hb, Octet.get_set_ne _ _ hb⟩, hsettings, hheld⟩

/-- The ports and the loop after an outcome that changes whether the board is faulted: the event, and the trip. -/
theorem takeOutcome_posts {w : Writeout} {o : BoardOutcome} {s : State}
    (h : ¬((s.mirror.boards.get w.board).state = .faulted ↔ (s.boardAfter w o).state = .faulted)) :
    (∀ q, (s.ports.get q).queue.length < 16 →
      ⟨.boardChange w.board (s.boardAfter w o).state (s.boardAfter w o).faults, s.manager.cycle, s.manager.timebase⟩ ∈
        ((takeOutcome w o s).ports.get q).queue) ∧
    (s.loop.loop ≠ .closed ∨ (s.boardAfter w o).state ≠ .faulted → (takeOutcome w o s).ports =
      (s.post (.boardChange w.board (s.boardAfter w o).state (s.boardAfter w o).faults)).ports) := by
  obtain ⟨u, rfl, hports, -⟩ := takeOutcome_report w o s
  rw [hports, reportBoard_changed _ _ h]
  refine ⟨fun q hq => ?_, fun hno => ?_⟩
  · split
    · exact requestTrip_queue_mem _ (post_queue_new (s := s.onMirror _) _ hq)
    · exact post_queue_new (s := s.onMirror _) _ hq
  · rw [if_neg (fun hboth => hno.elim (fun hl => hl hboth.2) (fun hs => hs hboth.1))]
    rfl

theorem takeOutcome_silent {w : Writeout} {o : BoardOutcome} {s : State}
    (h : (s.mirror.boards.get w.board).state = .faulted ↔ (s.boardAfter w o).state = .faulted) :
    (takeOutcome w o s).ports = s.ports ∧ (takeOutcome w o s).loop = s.loop := by
  obtain ⟨u, rfl, hports, hloop⟩ := takeOutcome_report w o s
  rw [hports, hloop, reportBoard_same _ _ h]
  exact ⟨rfl, rfl⟩

/-- Settles O33: the outcome recorded, the next board addressed or the writeout ended, and the change posted. -/
theorem boardOutcomes : Obligations.BoardOutcomes := by
  intro s w c x h hc
  refine ⟨_, exec_outcome h hc, ?_⟩
  obtain ⟨hboard, hcounter, hothers, hsettings, hheld⟩ := takeOutcome_boards w x s
  obtain ⟨hmanager, hcommand, hstores, hengine, hreceivers, hslots⟩ := takeOutcome_frame w x s
  rw [hboard, hcounter, hsettings, hheld, hmanager, hcommand, hstores, hengine, hreceivers, hslots, takeOutcome_mirror]
  have hx := outcome_cases hc
  refine ⟨fun hg => ?_, fun hg hb => ?_, fun hg hb => ?_, fun hx => ?_, fun hna => ?_, takeOutcome_silent, fun hne => ?_,
    ?_, ?_, rfl, rfl, rfl, rfl, rfl, rfl, rfl, rfl⟩
  · rw [enterGap_some _ (m := recordOutcome w x s.mirror) hg]
    exact ⟨rfl, rfl, rfl, rfl, rfl⟩
  · rw [enterGap_none _ (m := recordOutcome w x s.mirror) hg, endGap_more (w := { w with outcomes := w.outcomes.set w.board x }) _ hb]
    exact ⟨rfl, rfl, rfl, rfl, rfl⟩
  · rw [enterGap_none _ (m := recordOutcome w x s.mirror) hg]
    cases hp : s.mirror.pendingVector with
    | none =>
      rw [endGap_last (w := { w with outcomes := w.outcomes.set w.board x })
        (m := recordOutcome w x s.mirror) hb hp]
      exact ⟨rfl, rfl, hp, fun _ => ⟨rfl, rfl⟩, fun v hv => nomatch hv⟩
    | some v =>
      rw [endGap_starts (w := { w with outcomes := w.outcomes.set w.board x })
        (m := recordOutcome w x s.mirror) hb hp]
      exact ⟨rfl, rfl, rfl, nofun, fun v' hv => by cases hv; exact ⟨rfl, rfl⟩⟩
  · rw [State.boardAfter, hx]
    rfl
  · rw [State.boardAfter, boardAfter_fails _ _ (hx.resolve_left hna)]
    exact ⟨boardFail_faults _ _, boardFail_state _ _⟩
  · obtain ⟨hqueued, hports⟩ := takeOutcome_posts hne
    refine ⟨hqueued, fun hno => hports (hno.imp_right fun hack => ?_)⟩
    rw [State.boardAfter, hack]
    nofun
  · exact fun b hb => by rw [← takeOutcome_mirror]; exact hothers b hb
  · rcases hx with rfl | rfl | rfl | rfl <;> rfl

/-- Settles O34: a board that becomes faulted in a closed loop trips it. -/
theorem boardFaultTrips : Obligations.BoardFaultTrips := by
  intro s w c h hc hstate hfaults hlimit
  obtain ⟨x, hrun, hx⟩ : ∃ x, exec c s = .next (takeOutcome w x s) ∧ (x = .naked ∨ x = .noAck ∨ x = .noReady) := by
    rcases hc with ⟨hc, ha⟩ | ⟨hc, ha⟩ | ⟨hc, ha⟩
    · exact ⟨.naked, exec_outcome h (.inr (.inl ⟨hc, rfl, ha⟩)), .inl rfl⟩
    · exact ⟨.noAck, exec_outcome h (.inr (.inr (.inl ⟨hc, rfl, ha⟩))), .inr (.inl rfl)⟩
    · exact ⟨.noReady, exec_outcome h (.inr (.inr (.inr ⟨hc, rfl, ha⟩))), .inr (.inr rfl)⟩
  have hafter : s.boardAfter w x = ⟨.faulted, (s.mirror.boards.get w.board).faults + 1⟩ := by
    rw [State.boardAfter, boardAfter_fails _ _ hx]
    have hf : ((s.mirror.boards.get w.board).fail s.mirror.settings.faultLimit).faults =
        (s.mirror.boards.get w.board).faults + 1 := by rw [boardFail_faults, if_pos hfaults]
    have hs : ((s.mirror.boards.get w.board).fail s.mirror.settings.faultLimit).state = .faulted := by
      rw [boardFail_state, hf, if_pos hlimit]
    generalize (s.mirror.boards.get w.board).fail s.mirror.settings.faultLimit = b at hf hs
    cases b
    cases hf
    cases hs
    rfl
  obtain ⟨u, hu, hports, hloop⟩ := takeOutcome_report w x s
  rw [hafter, reportBoard_changed _ _ (by simpa using hstate)] at hports hloop
  have hul : u.loop = s.loop := by rw [hu]; rfl
  have hum : u.manager = s.manager := by rw [hu]; rfl
  have hup : u.ports = s.ports := by rw [hu]; rfl
  dsimp only at hports hloop
  set v := u.post (.boardChange w.board .faulted ((s.mirror.boards.get w.board).faults + 1)) with hv
  have hvl : v.loop = s.loop := hul
  have hvm : v.manager = s.manager := hum
  refine ⟨_, hrun, fun hcl hopen htrip => ⟨?_, fun r hr => ?_⟩, fun hcl hopen d hd => ?_, fun hcl harmed => ⟨?_, ?_⟩,
    fun hncl => ?_⟩
  · have hopen' : v.cycleIsOpen = true := (cycleIsOpen_congr (by rw [hvm])).trans hopen
    rw [hloop, if_pos ⟨rfl, by rw [hul, hcl]⟩, requestTrip_open _ hopen', holdTrip_first _ (by rw [hvl, htrip]),
      State.onLoop_loop, withdrawRequest_loop_eq, hvl]
  · have hopen' : v.cycleIsOpen = true := (cycleIsOpen_congr (by rw [hvm])).trans hopen
    rw [hports, if_pos ⟨rfl, by rw [hul, hcl]⟩, requestTrip_open _ hopen', holdTrip_first _ (by rw [hvl, htrip]),
      State.onLoop_ports, withdrawRequest_some (x := r) _ _ (by rw [hvl, hr]), hvl]
    simp [State.withdraw, State.answer, codeLoop]
  · have hopen' : v.cycleIsOpen = true := (cycleIsOpen_congr (by rw [hvm])).trans hopen
    rw [hloop, if_pos ⟨rfl, by rw [hul, hcl]⟩, requestTrip_open _ hopen', holdTrip_more (d := d) _ (by rw [hvl, hd]),
      State.onLoop_loop, hvl]
  · rw [hloop, if_pos ⟨rfl, by rw [hul, hcl]⟩, requestTrip_armed _ (by rw [hvm, harmed]),
      takeTrip_closed _ (by rw [hvl, hcl]), State.post_loop, State.onLoop_loop, hvl, hvm]
  · rw [hports, if_pos ⟨rfl, by rw [hul, hcl]⟩, requestTrip_armed _ (by rw [hvm, harmed]),
      takeTrip_closed _ (by rw [hvl, hcl])]
    refine post_ports_congr _ ?_ (by rw [State.onLoop_manager, hvm]; rfl) (by rw [State.onLoop_manager, hvm]; rfl)
    exact post_ports_congr _ hup (by rw [hum]) (by rw [hum])
  · rw [hloop, if_neg (fun hboth => hncl (by rw [← hul]; exact hboth.2)), hvl]

end Sys2Proof.Machine

/-!
SUPPORT. The close computation's counts, the limits of its final drive, and its stages without neighbour entries.
-/
namespace Sys2Proof.Machine

/-! ## The neighbour list (R94) -/

theorem isSkipped_not (count : Nat) (e : NeighbourEntry) :
    (!e.isSkipped count) = decide (e.first ≠ e.second ∧ e.first < count ∧ e.second < count) := by
  rw [Bool.eq_iff_iff, decide_eq_true_iff, NeighbourEntry.isSkipped]
  simp [and_assoc]

theorem neighbourList_eq (w : WorkingSet) : neighbourList w.neighbours w.count =
    (((List.range (min (storeWord .neighbours w.neighbours 0).toNat 2048)).map (fun k =>
      { first := (storeWord .neighbours w.neighbours (3 * k + 1)).toNat,
        second := (storeWord .neighbours w.neighbours (3 * k + 2)).toNat,
        limit := (storeWord .neighbours w.neighbours (3 * k + 3)).toNat })).filter
      (fun e => decide (e.first ≠ e.second ∧ e.first < w.count ∧ e.second < w.count))) :=
  List.filter_congr fun e _ => isSkipped_not w.count e

theorem neighbourList_length_le (c : Cells 16) (count : Nat) : (neighbourList c count).length ≤ 2048 := by
  refine (List.length_filter_le _ _).trans ?_
  rw [List.length_map, List.length_range]
  exact Nat.min_le_right _ _

theorem mem_neighbourList {c : Cells 16} {count : Nat} {e : NeighbourEntry} (h : e ∈ neighbourList c count) :
    e.first < count ∧ e.second < count := by
  have hkept := (List.mem_filter.mp h).2
  rw [isSkipped_not, decide_eq_true_iff] at hkept
  exact hkept.2

/-! ## The counts of a close (R96) -/

theorem passEntry_snd (acc : List Int × Nat) (e : NeighbourEntry) : (passEntry acc e).2 ≤ acc.2 + 1 := by
  rw [passEntry]
  split
  · exact Nat.le_succ _
  · split <;> exact Nat.le_refl _

theorem foldl_passEntry_snd (es : List NeighbourEntry) (acc : List Int × Nat) :
    (es.foldl passEntry acc).2 ≤ acc.2 + es.length := by
  induction es generalizing acc with
  | nil => exact Nat.le_refl _
  | cons e es ih =>
    have hstep := passEntry_snd acc e
    have hrest := ih (passEntry acc e)
    rw [List.foldl_cons, List.length_cons]
    omega

theorem passedVector_adjustments_le (w : WorkingSet) :
    (passedVector w).2 ≤ (neighbourList w.neighbours w.count).length :=
  (foldl_passEntry_snd _ _).trans (Nat.zero_add _).le

/-- The actuators whose final drive is not the rounded one are those whose drive word is not. -/
theorem closeResult_limited (w : WorkingSet) : (closeResult w).counts.limited =
    (List.range w.count).countP (fun b => decide (((closeResult w).d.at b).toInt ≠ rounded w b)) := by
  refine List.countP_congr fun b hb => ?_
  rw [toInt_closeResult_d (List.mem_range.mp hb), decide_eq_true_iff, bne_iff_ne]

theorem excess_ne_zero (v : List Int) (e : NeighbourEntry) :
    (excess v e != 0) = decide (e.limit < (vectorAt v e.first - vectorAt v e.second).natAbs) := by
  rw [Bool.eq_iff_iff, bne_iff_ne, decide_eq_true_iff, excess]
  omega

/-- The entries over their limit at the end, read in the drive words. -/
theorem closeResult_residual (w : WorkingSet) : (closeResult w).counts.residual =
    (neighbourList w.neighbours w.count).countP (fun e => decide
      (e.limit < (((closeResult w).d.at e.first).toInt - ((closeResult w).d.at e.second).toInt).natAbs)) := by
  refine List.countP_congr fun e he => ?_
  obtain ⟨hfirst, hsecond⟩ := mem_neighbourList he
  rw [excess_ne_zero, toInt_closeResult_d hfirst, toInt_closeResult_d hsecond]

theorem closeResult_beyond {w : WorkingSet} {a : Nat} (h : w.count ≤ a) :
    (closeResult w).d.at a = 0 ∧ (closeResult w).u.at a = 0 := by
  simp [closeResult, Nat.not_lt.mpr h]

/-! ## The limits (R94, R96) -/

theorem clampDrive_within {w : WorkingSet} {a : Nat} (x : Int) (h : lowLimit w a ≤ highLimit w a) :
    lowLimit w a ≤ clampDrive w a x ∧ clampDrive w a x ≤ highLimit w a := by
  rw [clampDrive]
  omega

/-- With the limits in the wrong order the low one wins. -/
theorem clampDrive_reversed {w : WorkingSet} {a : Nat} (x : Int) (h : highLimit w a < lowLimit w a) :
    clampDrive w a x = lowLimit w a := by
  rw [clampDrive]
  omega

theorem clampDrive_idem (w : WorkingSet) (a : Nat) (x : Int) : clampDrive w a (clampDrive w a x) = clampDrive w a x := by
  unfold clampDrive
  omega

/-- Settles O28: the counts are read from the drive words, and every drive is the clamp of the pass. -/
theorem finalDriveWithinLimits : Obligations.FinalDriveWithinLimits := by
  intro w a es hes
  rw [← neighbourList_eq] at hes
  subst hes
  refine ⟨closeResult_limited w, ?_, rfl, passedVector_adjustments_le w, neighbourList_length_le _ _,
    closeResult_residual w, fun ha => ?_, closeResult_beyond⟩
  · rw [closeResult_limited]
    exact List.countP_le_length.trans List.length_range.le
  · rw [toInt_closeResult_d ha, vectorAt_finalVector ha]
    exact ⟨rfl, clampDrive_within _, clampDrive_reversed _⟩

/-! ## The stages without neighbour entries -/

theorem neighbourList_empty {c : Cells 16} (count : Nat) (h : storeWord .neighbours c 0 = 0) :
    neighbourList c count = [] := by
  rw [neighbourList, neighbourCount, h]
  rfl

/-- Without entries the final drive is the rounded one, clamped. -/
theorem finalDrive_withoutNeighbours {w : WorkingSet} {a : Nat} (ha : a < w.count)
    (h : storeWord .neighbours w.neighbours 0 = 0) :
    ((closeResult w).d.at a).toInt = clampDrive w a (rounded w a) := by
  have hpassed : (passedVector w).1 = clampedVector w := by
    rw [passedVector, neighbourList_empty _ h]
    rfl
  rw [toInt_closeResult_d ha, vectorAt_finalVector ha, hpassed, clampedVector, vectorAt_map_range _ ha, clampDrive_idem]

/-- Settles O29: the candidate of each loop state, rounded with the bias and clamped. -/
theorem closeStagesWithoutNeighbours : Obligations.CloseStagesWithoutNeighbours := by
  rintro w a g errors ha hnone rfl rfl v hv
  have hlist := neighbourList_empty w.count hnone
  have hcandidate : v = candidate w a := by
    rcases hv with ⟨hclosed, rfl⟩ | ⟨hfrozen, rfl⟩ | ⟨hopened, rfl⟩
    · rw [candidate_of_closed a hclosed, errorSum_eq]
      rfl
    · exact (candidate_of_frozen a hfrozen).symm
    · rw [candidate, hopened]
  subst hcandidate
  refine ⟨finalDrive_withoutNeighbours ha hnone, ?_, ?_⟩
  · exact Nat.le_zero.mp ((passedVector_adjustments_le w).trans (by rw [hlist]; exact Nat.le_refl 0))
  · rw [closeResult_residual, hlist]
    rfl

end Sys2Proof.Machine

/-!
SUPPORT. The close at the deadline: the frames it abandons, the slots it treats, and the trips it requests (R61, R70 to R76).
-/
namespace Sys2Proof.Machine

/-! ## The state the deadline closes -/

/-- The state with the deadline counted and every frame still attached abandoned. -/
def State.pastDeadline (s : State) : State :=
  forLinks abandonAtDeadline links
    (s.onManagerCounters (fun c => { c with deadlineCloses := Counter.increase c.deadlineCloses }))

/-- The manager, the units around it, and the record of the open cycle when the deadline closes it. -/
structure PastDeadline (s : State) (o : OpenRecord) (v : State) (o' : OpenRecord) : Prop where
  run : exec .deadlineExpiry s = .next (closeCycle .deadline v)
  abandons : v = s.pastDeadline
  record : v.manager.openRecord = some o'
  opened : o'.opened = o.opened
  status : ∀ l, o'.statuses.get l = statusAfterDeadline (o.statuses.get l)

theorem exists_pastDeadline {s : State} {o : OpenRecord} (h : s.resetActs = false)
    (hstate : s.manager.state = .gathering) (ho : s.manager.openRecord = some o)
    (hdue : s.manager.deadline = some 0) : ∃ v o', PastDeadline s o v o' := by
  have hrun : exec .deadlineExpiry s = .next (closeCycle .deadline s.pastDeadline) := by
    rw [exec_running _ h, whenRunning]
    refine congrArg _ (if_pos ?_)
    rw [hdue, hstate]
    rfl
  have hstatus := abandonAll_status
    (s.onManagerCounters (fun c => { c with deadlineCloses := Counter.increase c.deadlineCloses }))
  obtain ⟨-, -, -, -, -, -, -, -, -, -, -, -, hopened, -⟩ := abandonAllAtDeadline_keepsManager links
    (s.onManagerCounters (fun c => { c with deadlineCloses := Counter.increase c.deadlineCloses }))
  change ∀ k, statusOf k s.pastDeadline = statusAfterDeadline (statusOf k s) at hstatus
  change s.pastDeadline.manager.openRecord.map OpenRecord.opened = s.manager.openRecord.map OpenRecord.opened at hopened
  rw [ho, Option.map_some, Option.map_eq_some_iff] at hopened
  obtain ⟨o', ho', hopened'⟩ := hopened
  refine ⟨_, o', hrun, rfl, ho', hopened', fun l => ?_⟩
  have hl := hstatus l
  simp only [statusOf, ho, ho'] at hl
  exact hl

theorem PastDeadline.keeps {s v : State} {o o' : OpenRecord} (h : PastDeadline s o v o') :
    v.slots = s.slots ∧ v.stores = s.stores ∧ v.command = s.command ∧ v.loop = s.loop ∧ v.probe = s.probe ∧
      v.mirror = s.mirror ∧ v.ports = s.ports ∧ v.manager.timebase = s.manager.timebase ∧
      v.manager.cycle = s.manager.cycle ∧ v.manager.lastRecord = s.manager.lastRecord ∧
      v.manager.counters.deadlineCloses = Counter.increase s.manager.counters.deadlineCloses := by
  obtain ⟨-, rfl, -, -, -⟩ := h
  obtain ⟨-, -, -, hslots, hstores, hcommand, hloop, hprobe, hmirror, hports, -⟩ := abandonAllAtDeadline_keeps links
    (s.onManagerCounters (fun c => { c with deadlineCloses := Counter.increase c.deadlineCloses }))
  obtain ⟨-, htime, hcycle, -, -, -, -, -, -, -, hlast, hcounters, -⟩ := abandonAllAtDeadline_keepsManager links
    (s.onManagerCounters (fun c => { c with deadlineCloses := Counter.increase c.deadlineCloses }))
  exact ⟨hslots, hstores, hcommand, hloop, hprobe, hmirror, hports, htime, hcycle, hlast, by
    rw [State.pastDeadline, hcounters]
    rfl⟩

theorem PastDeadline.receiver {s v : State} {o o' : OpenRecord} (h : PastDeadline s o v o')
    (ho : s.manager.openRecord = some o) (l : LinkId) : v.receivers.get l =
      if isAttached (o.statuses.get l) then (s.receivers.get l).abandonDeadline else s.receivers.get l := by
  have hreceiver := abandonAll_receivers
    (s.onManagerCounters (fun c => { c with deadlineCloses := Counter.increase c.deadlineCloses })) l
  have hstatus : statusOf l (s.onManagerCounters (fun c => { c with
      deadlineCloses := Counter.increase c.deadlineCloses })) = o.statuses.get l := by
    rw [statusOf]
    change (match s.manager.openRecord with | none => none | some o => o.statuses.get l) = _
    rw [ho]
  rw [hstatus] at hreceiver
  rw [h.abandons]
  exact hreceiver

theorem PastDeadline.attached {s v : State} {o o' : OpenRecord} {l : LinkId} {r : Attachment}
    (h : PastDeadline s o v o') (ho : s.manager.openRecord = some o) (hl : isAttached (o.statuses.get l) = true)
    (hr : s.engine.records.get l = some r) (hd : r.state ≠ .discarded) : v.engine.fresh.get l = [] ∧
      (∀ j, slopeBase s.slots l ≤ j → j < slopeBase s.slots l + (s.slots.get l).slopeCount →
        v.engine.residuals.at j = 0) ∧
      ∀ x, s.engine.inFlight = some x → x.slot = l → v.engine.inFlight = some { x with isVoid := true } := by
  rw [h.abandons]
  refine abandonAll_attached
    (s.onManagerCounters (fun c => { c with deadlineCloses := Counter.increase c.deadlineCloses })) l r ?_ hr hd
  rw [← hl, statusOf]
  change isAttached (match s.manager.openRecord with | none => none | some o => o.statuses.get l) = _
  rw [ho]

theorem PastDeadline.notAttached {s v : State} {o o' : OpenRecord} {l : LinkId} (h : PastDeadline s o v o')
    (ho : s.manager.openRecord = some o) (hl : isAttached (o.statuses.get l) = false) :
    v.engine.fresh.get l = s.engine.fresh.get l ∧
      ∀ x, s.engine.inFlight = some x → x.slot = l → v.engine.inFlight = some x := by
  rw [h.abandons]
  refine abandonAll_notAttached
    (s.onManagerCounters (fun c => { c with deadlineCloses := Counter.increase c.deadlineCloses })) l ?_
  rw [← hl, statusOf]
  change isAttached (match s.manager.openRecord with | none => none | some o => o.statuses.get l) = _
  rw [ho]

theorem isAttached_eq_true {x : Option AttachStatus} : isAttached x = true ↔ ∃ v g, x = some (.attached v g) := by
  cases x with
  | none => simp [isAttached]
  | some y => cases y <;> simp [isAttached]

theorem isAttached_eq_false {x : Option AttachStatus} : isAttached x = false ↔ ∀ v g, x ≠ some (.attached v g) := by
  rw [← Bool.not_eq_true, isAttached_eq_true]
  simp

/-! ## The receiver of an abandoned frame (R61) -/

theorem abandonDeadline_head {r : Receiver} {e : FifoEntry} {rest : List FifoEntry} (h : r.fifo = e :: rest)
    (ha : e.attached = true) : r.abandonDeadline = { r with
      fifo := rest
      flow := if fifoGroups rest ≤ 32 then .go else r.flow
      reception := if e.verified then r.reception else r.reception.toDiscarding
      counters := { r.counters with deadline := Counter.increase r.counters.deadline } } := by
  rw [Receiver.abandonDeadline, h]
  dsimp only
  rw [if_pos ha]
  rfl

theorem abandonDeadline_noHead {r : Receiver} (h : ∀ e rest, r.fifo = e :: rest → e.attached = false) :
    r.abandonDeadline = { r with counters := { r.counters with deadline := Counter.increase r.counters.deadline } } := by
  rw [Receiver.abandonDeadline]
  dsimp only
  split
  · rfl
  · next e rest hfifo => rw [if_neg (by simp [h e rest hfifo])]

/-- Settles O12: the frames abandoned, then the close of the cycle they leave. -/
theorem deadlineClosesCycle : Obligations.DeadlineClosesCycle := by
  intro s o h hstate ho hdue
  obtain ⟨v, o', hv⟩ := exists_pastDeadline h hstate ho hdue
  obtain ⟨hslots, hstores, hcommand, hloop, hprobe, hmirror, hports, htime, hcycle, hlast, hcount⟩ := hv.keeps
  have hmanager := closeCycle_manager .deadline v o' hv.record
  obtain ⟨hengine, hreceivers, -, -⟩ := closeCycle_engine .deadline v o' hv.record
  have hstarts := closeCycle_startsComputation .deadline v o' hv.record
  obtain ⟨-, -, kstores, kmirror, -, -, ku, kd, -⟩ := closeCycle_keeps .deadline v
  refine ⟨_, { o' with closing := some (closeInfo .deadline o' v) }, closeInfo .deadline o' v, hv.run, ?_⟩
  generalize hinfo : closeInfo .deadline o' v = info at hmanager hstarts ⊢
  have hprevious : info.cause = .deadline ∧ info.time = v.manager.timebase ∧ info.previous = v.mirror.latest := by
    rw [← hinfo]
    exact ⟨rfl, rfl, rfl⟩
  generalize closeCycle .deadline v = t at *
  rw [hmanager, hengine, hreceivers, kstores, kmirror, ku, kd]
  refine ⟨rfl, rfl, rfl, hv.opened, rfl, hprevious.1, hprevious.2.1.trans htime, by rw [hprevious.2.2, hmirror],
    fun l => ?_, hcount, ?_, fun l verified groups hl => ⟨fun e rest hfifo ha => ?_, fun hnone => ?_, fun r hr hd => ?_⟩,
    fun l hl => ?_, by rw [hcommand], by rw [hcommand], hstores, hlast, hcycle, hmirror, fun l => Quad.get_fill _ _⟩
  · exact hv.status l
  · exact hv.opened ▸ startsComputation_congr hprobe hcommand hstores hstarts
  · rw [hv.receiver ho, if_pos (isAttached_eq_true.mpr ⟨_, _, hl⟩), abandonDeadline_head hfifo ha]
    cases (s.receivers.get l).reception <;> rfl
  · rw [hv.receiver ho, if_pos (isAttached_eq_true.mpr ⟨_, _, hl⟩), abandonDeadline_noHead hnone]
  · obtain ⟨hfresh, hresiduals, hflight⟩ := hv.attached ho (isAttached_eq_true.mpr ⟨_, _, hl⟩) hr hd
    exact ⟨fun a => by rw [Engine.close, hfresh]; rfl, hresiduals, hflight⟩
  · have hnot := isAttached_eq_false.mpr hl
    obtain ⟨hfresh, hflight⟩ := hv.notAttached ho hnot
    exact ⟨by rw [hv.receiver ho, hnot]; rfl, hfresh, hflight⟩

/-! ## The slots at the deadline (R70 to R73) -/

theorem olderAge_eq (n : Nat) : olderAge n = min (n + 1) 16 := by
  rw [olderAge, Config.maxAge]
  split <;> omega

theorem closeSlot_disabled (st : Option AttachStatus) {x : Slot} (h : x.enabled = false) :
    closeSlot st x = { selection := .notExpected, slot := x, change := none, lost := false } := by
  unfold closeSlot
  rw [h]
  rfl

theorem closeSlot_none {x : Slot} (h : x.enabled = true) : closeSlot none x =
    { selection := if x.muted then .muted else .notExpected, slot := x, change := none, lost := false } := by
  rw [closeSlot, if_pos h]

theorem closeSlot_ofArrived {x : Slot} (h : x.enabled = true) : closeSlot (some .arrived) x = arriveSlot x := by
  rw [closeSlot, if_pos h]

theorem closeSlot_missed {x : Slot} {y : AttachStatus} (h : x.enabled = true) (hy : y ≠ .arrived) :
    closeSlot (some y) x = missSlot x := by
  unfold closeSlot
  rw [if_pos h]
  cases y
  case arrived => exact absurd rfl hy
  all_goals rfl

theorem statusAfterDeadline_missed {y : AttachStatus} (h : y ≠ .arrived) :
    ∃ z, statusAfterDeadline (some y) = some z ∧ z ≠ .arrived := by
  cases y
  case arrived => exact absurd rfl h
  all_goals exact ⟨_, rfl, nofun⟩

theorem missSlot_muted {x : Slot} (h : x.muted = true) :
    missSlot x = { selection := .muted, slot := x, change := none, lost := false } := by
  rw [missSlot, if_pos h]

theorem missSlot_alreadyLost {x : Slot} (h : x.muted = false) (hs : x.state = .lost) : missSlot x =
    { selection := .zeroed, slot := { x with age := min (x.age + 1) 16 }, change := none, lost := false } := by
  rw [missSlot, if_neg (by simp [h]), if_pos hs, olderAge_eq]

theorem missSlot_holds {x : Slot} (h : x.muted = false) (hs : x.state ≠ .lost)
    (hage : min (x.age + 1) 16 ≤ x.policy.holdLimit) : missSlot x =
      { selection := x.policy.late.selection, slot := { x with age := min (x.age + 1) 16, state := .holding },
        change := none, lost := false } := by
  rw [missSlot, if_neg (by simp [h]), if_neg hs, olderAge_eq, if_pos hage]

theorem missSlot_loses {x : Slot} (h : x.muted = false) (hs : x.state ≠ .lost)
    (hage : x.policy.holdLimit < min (x.age + 1) 16) : missSlot x =
      { selection := .zeroed, slot := { x with age := min (x.age + 1) 16, state := .lost },
        change := some .lost, lost := true } := by
  rw [missSlot, if_neg (by simp [h]), if_neg hs, olderAge_eq, if_neg (Nat.not_le.mpr hage)]

theorem lateSelection_eq (p : LatePolicy) : p.selection = if p = .hold then .held else .zeroed := by
  cases p <;> rfl

theorem arriveSlot_slot (x : Slot) : (arriveSlot x).selection = .fresh ∧
    (arriveSlot x).slot = { x with age := 0, state := if x.muted then x.state else .active } := by
  rw [arriveSlot]
  cases hm : x.muted
  · exact ⟨rfl, rfl⟩
  · exact ⟨rfl, rfl⟩

theorem arriveSlot_change {x : Slot} (hm : x.muted = false) (hs : x.state = .lost) :
    (arriveSlot x).change = some .active := by
  rw [arriveSlot, if_neg (by simp [hm]), hs]
  rfl

/-! ## The events of the slots -/

theorem requestTrip_closing_queue {s : State} (c : TripCause) (h : s.manager.state = .closing) (q : PortId) :
    ((requestTrip c s).ports.get q).queue = (s.ports.get q).queue := by
  rw [requestTrip_open c ((cycleIsOpen_iff s).mpr (.inr h))]
  cases ht : s.loop.trip with
  | some d => rw [holdTrip_more c ht]; rfl
  | none =>
    rw [holdTrip_first c ht]
    exact withdrawRequest_queue s _ _ q

theorem post_queue_length (s : State) (x : EventSubject) (q : PortId) :
    ((s.post x).ports.get q).queue.length ≤ (s.ports.get q).queue.length + 1 := by
  rw [State.post_ports, Pair.get_map, Port.takeEvent]
  split
  · exact (List.length_append ..).le
  · exact Nat.le_succ _

theorem postSlotChange_queue (l : LinkId) (c : Option SlotState) (s : State) (q : PortId) :
    ((postSlotChange l c s).ports.get q).queue.length ≤ (s.ports.get q).queue.length + 1 ∧
      ∀ e ∈ (s.ports.get q).queue, e ∈ ((postSlotChange l c s).ports.get q).queue := by
  cases c with
  | none => exact ⟨Nat.le_succ _, fun _ he => he⟩
  | some x => exact ⟨post_queue_length s _ q, fun _ he => post_queue_mem _ he⟩

/-- The queue of a port when a slot is treated: that of its event, if it has one. -/
theorem treatSlot_queue (x : LoopState) (st : Quad (Option AttachStatus)) (l : LinkId) {s : State}
    (h : s.manager.state = .closing) (q : PortId) : ((treatSlot x st l s).ports.get q).queue =
      ((postSlotChange l (closeSlot (st.get l) (s.slots.get l)).change
        (s.onSlot l (fun _ => (closeSlot (st.get l) (s.slots.get l)).slot))).ports.get q).queue := by
  rw [treatSlot]
  split
  · refine requestTrip_closing_queue _ ?_ q
    obtain ⟨-, -, -, hmanager, -⟩ := postSlotChange_keeps l (closeSlot (st.get l) (s.slots.get l)).change
      (s.onSlot l (fun _ => (closeSlot (st.get l) (s.slots.get l)).slot))
    rw [hmanager]
    exact h
  · rfl

theorem treatSlots_queue_mem (x : LoopState) (st : Quad (Option AttachStatus)) {q : PortId} {e : EventRecord}
    (ls : List LinkId) (s : State) (h : s.manager.state = .closing) (he : e ∈ (s.ports.get q).queue) :
    e ∈ ((forLinks (treatSlot x st) ls s).ports.get q).queue := by
  induction ls generalizing s with
  | nil => exact he
  | cons k ks ih =>
    refine ih _ (treatSlot_loop x st k s h).2 ?_
    rw [treatSlot_queue x st k h q]
    exact (postSlotChange_queue k _ _ q).2 e he

/-- A change of a slot is queued at every port with room for one event per slot. -/
theorem treatSlots_posts (x : LoopState) (st : Quad (Option AttachStatus)) {l : LinkId} {c : SlotState} {y : Slot}
    {q : PortId} (hc : (closeSlot (st.get l) y).change = some c) (ls : List LinkId) (hl : l ∈ ls) (s : State)
    (h : s.manager.state = .closing) (hy : s.slots.get l = y)
    (hroom : (s.ports.get q).queue.length + ls.length ≤ 16) :
    ⟨.slotChange l c, s.manager.cycle, s.manager.timebase⟩ ∈
      ((forLinks (treatSlot x st) ls s).ports.get q).queue := by
  induction ls generalizing s with
  | nil => cases hl
  | cons k ks ih =>
    rw [List.length_cons] at hroom
    have hclosing := (treatSlot_loop x st k s h).2
    have hmanager : (treatSlot x st k s).manager = s.manager := by
      obtain ⟨-, -, -, hm, -⟩ := treatSlot_keeps x st k s
      exact hm
    by_cases hk : l = k
    · subst hk
      refine treatSlots_queue_mem x st ks _ hclosing ?_
      rw [treatSlot_queue x st l h q, hy, hc]
      exact post_queue_new (s := s.onSlot l _) _ (show (s.ports.get q).queue.length < 16 by omega)
    · have hrest := ih ((List.mem_cons.mp hl).resolve_left hk) _ hclosing
        (by rw [treatSlot_slots, Quad.get_set_ne _ _ hk, hy]) (by
          have hlen := (postSlotChange_queue k (closeSlot (st.get k) (s.slots.get k)).change
            (s.onSlot k (fun _ => (closeSlot (st.get k) (s.slots.get k)).slot)) q).1
          rw [treatSlot_queue x st k h q]
          change _ ≤ (s.ports.get q).queue.length + 1 at hlen
          omega)
      rwa [hmanager] at hrest

/-! ## The close at the deadline -/

/-- What the close at the deadline makes of one slot. -/
structure SlotAtDeadline (s : State) (o : OpenRecord) (l : LinkId) (t : State) (info : CloseInfo) (x : SlotClose) :
    Prop where
  slot : t.slots.get l = x.slot
  selection : info.selections.get l = x.selection
  age : info.ages.get l = x.slot.age
  sequence : info.sequences.get l =
    if x.selection = .fresh then (s.receivers.get l).attachedSeq else (s.receivers.get l).receivedSeq
  held : t.engine.held.get l = if x.selection = .fresh then s.engine.fresh.get l else s.engine.held.get l
  posts : ∀ c, x.change = some c → ∀ q, (s.ports.get q).queue.length ≤ 12 →
    ⟨.slotChange l c, s.manager.cycle, s.manager.timebase⟩ ∈ (t.ports.get q).queue

theorem abandonDeadline_sequences (r : Receiver) : r.abandonDeadline.attachedSeq = r.attachedSeq ∧
    r.abandonDeadline.receivedSeq = r.receivedSeq := by
  by_cases h : ∀ e rest, r.fifo = e :: rest → e.attached = false
  · rw [abandonDeadline_noHead h]
    exact ⟨rfl, rfl⟩
  · simp only [not_forall, Bool.not_eq_false] at h
    obtain ⟨e, rest, hfifo, ha⟩ := h
    rw [abandonDeadline_head hfifo ha]
    exact ⟨rfl, rfl⟩

theorem discard_held (l : LinkId) (b n : Nat) (e : Engine) : (Engine.discard l b n e).held = e.held := by
  rw [Engine.discard]
  cases e.records.get l with
  | none => rfl
  | some r => cases r with | mk _ _ _ st => cases st <;> rfl

theorem pastDeadline_held (s : State) : s.pastDeadline.engine.held = s.engine.held :=
  forLinks_keeps (fun u => u.engine.held) _ (fun l u => by
    rw [(abandonAtDeadline_self l u).2.2]
    split
    · exact discard_held _ _ _ _
    · rfl) links _

/-- A slot selected FRESH at the deadline has arrived. -/
theorem arrived_of_fresh {st : Option AttachStatus} {x : Slot}
    (h : (closeSlot (statusAfterDeadline st) x).selection = .fresh) : st = some .arrived := by
  cases hx : x.enabled with
  | false =>
    rw [closeSlot_disabled _ hx] at h
    nomatch h
  | true =>
    cases st with
    | none =>
      rw [show statusAfterDeadline none = none from rfl, closeSlot_none hx] at h
      split at h <;> nomatch h
    | some y =>
      by_cases hy : y = .arrived
      · rw [hy]
      · obtain ⟨z, hz, hza⟩ := statusAfterDeadline_missed hy
        rw [hz, closeSlot_missed hx hza, missSlot, lateSelection_eq] at h
        repeat' split at h
        all_goals nomatch h

theorem PastDeadline.closesSlot {s v : State} {o o' : OpenRecord} (h : PastDeadline s o v o')
    (ho : s.manager.openRecord = some o) (l : LinkId) : SlotAtDeadline s o l (closeCycle .deadline v)
      (closeInfo .deadline o' v) (closeSlot (statusAfterDeadline (o.statuses.get l)) (s.slots.get l)) := by
  obtain ⟨hslots, -, -, -, -, -, hports, htime, hcycle, -, -⟩ := h.keeps
  obtain ⟨cslots, -, cports⟩ := closeCycle_slots .deadline v o' h.record
  obtain ⟨cengine, -, -, -⟩ := closeCycle_engine .deadline v o' h.record
  have hselection : (closeSelections o'.statuses v.slots).get l =
      (closeSlot (statusAfterDeadline (o.statuses.get l)) (s.slots.get l)).selection := by
    rw [closeSelections, Quad.get_tabulate, h.status, hslots]
  have hslot : (treatSlots o' v).slots.get l =
      (closeSlot (statusAfterDeadline (o.statuses.get l)) (s.slots.get l)).slot := by
    rw [treatSlots_get, h.status, hslots]
  have hreceiver : (v.receivers.get l).attachedSeq = (s.receivers.get l).attachedSeq ∧
      (v.receivers.get l).receivedSeq = (s.receivers.get l).receivedSeq := by
    rw [h.receiver ho]
    split
    · exact abandonDeadline_sequences _
    · exact ⟨rfl, rfl⟩
  refine ⟨by rw [cslots, hslot], hselection, ?_, ?_, ?_, fun c hc q hq => ?_⟩
  · rw [closeInfo]
    dsimp only
    rw [Quad.get_map, hslot]
  · rw [closeInfo]
    dsimp only
    rw [Quad.get_tabulate, hselection, sequenceField, hreceiver.1, hreceiver.2]
  · rw [cengine, Engine.close]
    dsimp only
    rw [Quad.get_tabulate, hselection, h.abandons, pastDeadline_held, ← h.abandons]
    split
    · next hfresh =>
      have hnot : isAttached (o.statuses.get l) = false := by
        rw [arrived_of_fresh hfresh]
        rfl
      rw [(h.notAttached ho hnot).1]
    · rfl
  · rw [cports, treatSlots, ← hcycle, ← htime]
    rw [← h.status, ← hslots] at hc
    exact treatSlots_posts (s := enterClosing v) o'.opened.loop o'.statuses hc links (by fin_cases l <;> simp [links]) rfl rfl
      (by rw [enterClosing, State.onManager_ports, hports]; exact Nat.add_le_add_right hq 4)

/-- The trips of the slots lost at the deadline. -/
theorem PastDeadline.trips {s v : State} {o o' : OpenRecord} (h : PastDeadline s o v o') {ks : List LinkId}
    (hks : ks = links.filter (fun k => lossTrips .closed
      (closeSlot (statusAfterDeadline (o.statuses.get k)) (s.slots.get k)))) :
    (o.opened.loop ≠ .closed ∨ ks = [] → (closeCycle .deadline v).loop = s.loop) ∧
      (o.opened.loop = .closed → ∀ k rest, ks = k :: rest →
        (s.loop.trip = none → (closeCycle .deadline v).loop =
            { s.loop with request := none, trip := some { cause := .slot k, additional := rest.length } } ∧
          ∀ r, s.loop.request = some r → ((closeCycle .deadline v).ports.get r.port).activity =
            .result { code := 0x30, cls := .withdrawn, reason := .tripped, data := [s.loop.loop.code] } 0) ∧
        ∀ d, s.loop.trip = some d → d.additional ≤ 255 → (closeCycle .deadline v).loop =
          { s.loop with trip := some { d with additional := min (d.additional + ks.length) 255 } }) := by
  obtain ⟨hslots, -, -, hloop, -⟩ := h.keeps
  obtain ⟨-, cloop, cports⟩ := closeCycle_slots .deadline v o' h.record
  rw [cloop, cports, treatSlots, ← hloop]
  have htrips := fun T hT => treatSlots_trips o'.opened.loop o'.statuses v T hT links (enterClosing v) (by decide) rfl
    (fun _ _ => rfl)
  have hloopKept : (enterClosing v).loop = v.loop := rfl
  have hlength : ks.length ≤ 4 := hks ▸ List.length_filter_le _ _
  by_cases hclosed : o.opened.loop = .closed
  · obtain ⟨hnone, hmore, hfirst⟩ := htrips (fun k => lossTrips .closed
      (closeSlot (statusAfterDeadline (o.statuses.get k)) (s.slots.get k)))
      (fun k => by rw [h.opened, hclosed, h.status, hslots])
    rw [← hks] at hnone hmore hfirst
    refine ⟨fun hno => (hnone (hno.resolve_left (not_not.mpr hclosed))).1, fun _ k rest hk => ⟨fun hno => ?_, fun d hd hle => ?_⟩⟩
    · refine hfirst k rest hk hno ?_
      rw [hk, List.length_cons] at hlength
      omega
    · exact (hmore d hd hle).1
  · obtain ⟨hnone, -, -⟩ := htrips (fun _ => false) (fun k => by
      rw [h.opened, lossTrips, beq_eq_false_iff_ne.mpr hclosed, Bool.and_false])
    exact ⟨fun _ => (hnone (by decide)).1, fun hc => absurd hc hclosed⟩

/-- Settles O13: each slot by its status at the deadline, then the trips in the order of the links. -/
theorem slotsAtDeadlineClose : Obligations.SlotsAtDeadlineClose := by
  intro s o l h hstate ho hdue
  obtain ⟨v, o', hv⟩ := exists_pastDeadline h hstate ho hdue
  obtain ⟨hslot, hselection, hage, hsequence, hheld, hposts⟩ := hv.closesSlot ho l
  refine ⟨_, { o' with closing := some (closeInfo .deadline o' v) }, closeInfo .deadline o' v, hv.run, ?_, rfl,
    fun hen => ⟨fun x hx hxa => ?_, fun ha => ?_, fun hnone => ?_⟩, fun hdis => ?_, by rw [hsequence, hselection],
    by rw [hheld, hselection], fun ks hks => hv.trips (hks.trans ?_)⟩
  · rw [closeCycle_manager .deadline v o' hv.record]
  · obtain ⟨z, hz, hza⟩ := statusAfterDeadline_missed hxa
    rw [hx, hz, closeSlot_missed hen hza] at hslot hselection hage hposts
    rw [hslot, hselection, hage]
    refine ⟨fun hm hs => ⟨fun hl => ?_, fun hl => ?_⟩, fun hm hs => ?_, fun hm => ?_⟩
    · have hnl : (s.slots.get l).state ≠ .lost := by rcases hs with hs | hs <;> rw [hs] <;> nofun
      rw [missSlot_holds hm hnl hl, lateSelection_eq]
      exact ⟨rfl, rfl, rfl⟩
    · have hnl : (s.slots.get l).state ≠ .lost := by rcases hs with hs | hs <;> rw [hs] <;> nofun
      rw [missSlot_loses hm hnl hl] at hposts ⊢
      exact ⟨rfl, rfl, rfl, hposts _ rfl⟩
    · rw [missSlot_alreadyLost hm hs]
      exact ⟨rfl, rfl, rfl⟩
    · rw [missSlot_muted hm]
      exact ⟨rfl, rfl, rfl⟩
  · have harrived : closeSlot (statusAfterDeadline (some .arrived)) (s.slots.get l) = arriveSlot (s.slots.get l) :=
      closeSlot_ofArrived hen
    obtain ⟨hfresh, htreated⟩ := arriveSlot_slot (s.slots.get l)
    rw [ha, harrived] at hslot hselection hage hposts
    rw [hslot, hselection, hage, hfresh, htreated]
    exact ⟨rfl, rfl, rfl, fun hl hm => hposts _ (arriveSlot_change hm hl)⟩
  · have hkept : closeSlot (statusAfterDeadline none) (s.slots.get l) = _ := closeSlot_none hen
    rw [hnone, hkept] at hslot hselection hage
    exact ⟨hslot, hage, hselection⟩
  · rw [closeSlot_disabled _ hdis] at hslot hselection hage
    exact ⟨hslot, hage, hselection⟩
  · exact List.filter_congr fun k _ => (lossTrips_deadline _ _).symm

end Sys2Proof.Machine

/-!
SUPPORT. The end of a good frame: the link goes up, a notice mutes or unmutes its slot, a stored frame is verified.
-/
namespace Sys2Proof.Machine

/-! ## The good end of a frame (R21) -/

/-- The state with a good frame counted and the decoder's frame mark raised. -/
def State.goodEnd (s : State) (l : LinkId) (window : List Bool) : State :=
  s.onReceiver l (fun r => { r with
    decoder := .locked window true
    reception := .between
    counters := { r.counters with good := Counter.increase r.counters.good } })

theorem goodFrame_withDecoder (s : State) (l : LinkId) (window : List Bool) (good : Bool) :
    goodFrame l (s.withDecoder l (.locked window good)) =
      if good then s.goodEnd l window else (s.goodEnd l window).post (.linkChange l .up) := by
  rw [goodFrame, setReception_withDecoder, onReceiver_onReceiver, linkUp, State.onReceiver_receivers,
    quadModify_get_self]
  cases good
  · exact (if_pos rfl).trans (congrArg (State.post (.linkChange l .up)) (onReceiver_onReceiver s l _ _))
  · exact if_neg nofun

/-- The state in which the end of a good frame is taken further. -/
def State.afterGood (s : State) (l : LinkId) (window : List Bool) (good : Bool) : State :=
  if good then s.goodEnd l window else (s.goodEnd l window).post (.linkChange l .up)

theorem afterGood_keeps (s : State) (l : LinkId) (window : List Bool) (good : Bool) :
    (s.afterGood l window good).manager = s.manager ∧ (s.afterGood l window good).slots = s.slots ∧
      (s.afterGood l window good).engine = s.engine ∧
      (∀ k, ((s.afterGood l window good).receivers.get k).fifo = (s.receivers.get k).fifo) ∧
      ∀ k, k ≠ l → (s.afterGood l window good).receivers.get k = s.receivers.get k := by
  have hfifo : ∀ k, ((s.goodEnd l window).receivers.get k).fifo = (s.receivers.get k).fifo := by
    intro k
    rw [State.goodEnd, State.onReceiver_receivers, quadModify_get]
    split
    · next hk => rw [hk]
    · rfl
  have hothers : ∀ k, k ≠ l → (s.goodEnd l window).receivers.get k = s.receivers.get k :=
    fun k hk => quadModify_get_ne _ _ hk
  cases good <;> exact ⟨rfl, rfl, rfl, hfifo, hothers⟩

theorem checkSequence_eq (q : Word) : Receiver.checkSequence q = fun r => { r with
    lastGoodSeq := q
    primed := true
    counters := { r.counters with
      sequenceBreaks := if r.primed = true ∧ q ≠ r.lastGoodSeq + 1 then
        Counter.increase r.counters.sequenceBreaks else r.counters.sequenceBreaks } } := by
  funext r
  simp [Receiver.checkSequence, Counter.increaseIf]

theorem exec_goodDiscarded {s : State} {l : LinkId} {window : List Bool} {good : Bool} {f : RxFrame}
    (h : s.resetActs = false) (hd : (s.receivers.get l).decoder = .locked window good) (ht : f.taken = f.expected)
    (hcrc : f.crc = f.crcWord) (hf : (s.receivers.get l).reception = .discarding f) :
    exec (.linkEndSymbol l) s = .next (
      if f.isData then (s.afterGood l ((false :: window).take 16) good).onReceiver l (Receiver.checkSequence f.sequence)
      else takeNotice l f (s.afterGood l ((false :: window).take 16) good)) := by
  rw [exec_valid (sym := .fin) h hd rfl rfl, receive, receiveEnd]
  simp only [State.withDecoder_receiver, hf]
  rw [discardingEnd, if_neg (not_not.mpr ht), if_neg (not_not.mpr hcrc), verifyDiscarded, goodFrame_withDecoder]
  rfl

theorem exec_goodStored {s : State} {l : LinkId} {window : List Bool} {good : Bool} {f : RxFrame}
    (h : s.resetActs = false) (hd : (s.receivers.get l).decoder = .locked window good) (ht : f.taken = f.expected)
    (hcrc : f.crc = f.crcWord) (hf : (s.receivers.get l).reception = .storing f) {t : State}
    (hstored : t = ((s.afterGood l ((false :: window).take 16) good).onReceiver l
      (Receiver.checkSequence f.sequence)).onReceiver l
        (fun r => { r with fifo := verifyLast (s.receivers.get l).fifo })) :
    exec (.linkEndSymbol l) s = .next (afterDeparture l
      (if lastAttached (s.receivers.get l).fifo then reportVerified l t else t)) := by
  rw [exec_valid (sym := .fin) h hd rfl rfl, receive, receiveEnd]
  simp only [State.withDecoder_receiver, hf]
  rw [storingEnd, if_neg (not_not.mpr ht), if_neg (not_not.mpr hcrc), verifyStored, goodFrame_withDecoder,
    State.withDecoder_receiver, hstored, onReceiver_onReceiver]
  rfl

/-! ## Notices (R22) -/

/-- The state with a notice counted. -/
def State.noticed (u : State) (l : LinkId) : State :=
  u.onReceiver l (fun r => { r with counters := { r.counters with notices := Counter.increase r.counters.notices } })

theorem takeNotice_mutes {f : RxFrame} (l : LinkId) (u : State) (h : f.word2 = 2) :
    takeNotice l f u = muteSlot l (u.noticed l) := by
  rw [takeNotice]
  exact if_pos h

theorem takeNotice_unmutes {f : RxFrame} (l : LinkId) (u : State) (h : f.word2 = 1) :
    takeNotice l f u = evalLead (unmuteSlot l (u.noticed l)) := by
  rw [takeNotice]
  exact if_neg (by rw [h]; decide)

theorem muteSlot_mutes {s : State} {l : LinkId} (he : (s.slots.get l).enabled = true)
    (hm : (s.slots.get l).muted = false) : muteSlot l s =
      (s.onSlot l (fun x => { x with muted := true, state := .muted })).post (.slotChange l .muted) := by
  rw [muteSlot, he, hm]
  rfl

theorem muteSlot_kept {s : State} {l : LinkId} (h : (s.slots.get l).enabled = false ∨ (s.slots.get l).muted = true) :
    muteSlot l s = s := by
  rw [muteSlot]
  refine if_neg ?_
  rcases h with h | h <;> simp [h]

theorem unmuteSlot_unmutes {s : State} {l : LinkId} (h : (s.slots.get l).muted = true) : unmuteSlot l s =
    (s.onSlot l (fun x => { x with muted := false, age := x.policy.holdLimit + 1, state := .lost })).post
      (.slotChange l .lost) := by
  rw [unmuteSlot, if_pos h]

theorem unmuteSlot_kept {s : State} {l : LinkId} (h : (s.slots.get l).muted = false) : unmuteSlot l s = s := by
  rw [unmuteSlot, if_neg (by simp [h])]

theorem advance_keeps (x : Slot) :
    x.advance.muted = x.muted ∧ x.advance.state = x.state ∧ x.advance.age = x.age := by
  rw [Slot.advance]
  split <;> exact ⟨rfl, rfl, rfl⟩

/-- An unmute with no lead frame waiting posts the slot as lost and opens no cycle. -/
theorem unmute_waits {s : State} {l : LinkId} (h : (s.slots.get l).muted = true)
    (hlead : s.manager.state ≠ .armed ∨ s.manager.settings.mode ≠ .lead ∨
      (s.receivers.get s.manager.settings.leadSlot).fifo = [] ∨
      (s.manager.settings.leadSlot ≠ l ∧ (s.slots.get s.manager.settings.leadSlot).muted = true)) :
    evalLead (unmuteSlot l s) =
      (s.onSlot l (fun x => { x with muted := false, age := x.policy.holdLimit + 1, state := .lost })).post
        (.slotChange l .lost) := by
  rw [unmuteSlot_unmutes h]
  refine evalLead_unmet _ (leadCondition_eq_false.mpr ?_)
  simp only [State.post_manager, State.post_slots, State.post_receivers, State.onSlot_manager,
    State.onSlot_receivers, State.onSlot_slots]
  rcases hlead with hlead | hlead | hlead | ⟨hne, hlead⟩
  · exact .inr (.inl hlead)
  · exact .inl hlead
  · exact .inr (.inr (.inr hlead))
  · exact .inr (.inr (.inl (by rwa [quadModify_get_ne _ _ hne])))

/-- An unmute of the lead slot opens the cycle of a frame that waits there. -/
theorem unmute_opensLead {s : State} {l : LinkId} (h : (s.slots.get l).muted = true) (ha : s.manager.state = .armed)
    (hmode : s.manager.settings.mode = .lead) (hlead : s.manager.settings.leadSlot = l)
    (hfifo : (s.receivers.get l).fifo ≠ []) :
    ∃ t o, evalLead (unmuteSlot l s) = t ∧ t.manager.openRecord = some o ∧ o.opened.cause = .lead ∧
      o.opened.lateStart = false ∧ o.opened.time = s.manager.timebase ∧ (t.slots.get l).muted = false ∧
      (t.slots.get l).state = .lost ∧ (t.slots.get l).age = (s.slots.get l).policy.holdLimit + 1 := by
  set v := (s.onSlot l (fun x => { x with muted := false, age := x.policy.holdLimit + 1, state := .lost })).post
    (.slotChange l .lost) with hv
  have hslot : v.slots.get l =
      { s.slots.get l with muted := false, age := (s.slots.get l).policy.holdLimit + 1, state := .lost } :=
    quadModify_get_self _ _ _
  have hcondition : leadCondition v = true := by
    refine leadCondition_eq_true.mpr ⟨hmode, ha, ?_, ?_⟩
    · rw [hv, State.post_manager, State.onSlot_manager, hlead, ← hv, hslot]
    · rw [hv, State.post_manager, State.onSlot_manager, hlead]
      exact hfifo
  obtain ⟨o, ho, hopened, hslots, -⟩ := openCycle_spec .lead false v
  have htslot : (openCycle .lead false v).slots.get l = (v.slots.get l).advance := by rw [hslots, Quad.get_map]
  obtain ⟨hmuted, hstate, hage⟩ := advance_keeps (v.slots.get l)
  refine ⟨_, o, ?_, ho, by rw [hopened]; rfl, by rw [hopened]; rfl, by rw [hopened]; rfl, ?_, ?_, ?_⟩
  · rw [unmuteSlot_unmutes h, ← hv, evalLead, if_pos hcondition]
  · rw [htslot, hmuted, hslot]
  · rw [htslot, hstate, hslot]
  · rw [htslot, hage, hslot]

/-! ## A stored frame verified (R21) -/

theorem verifyLast_concat (front : List FifoEntry) (e : FifoEntry) : verifyLast (front ++ [e]) =
    if e.attached && e.groups.isEmpty then front else front ++ [{ e with verified := true }] := by
  rw [verifyLast, List.getLast?_concat]
  dsimp only
  rw [List.dropLast_concat, modifyLast_concat]

/-- The oldest frame after a verification was the oldest before, with the same groups. -/
theorem head_of_verifyLast {fifo rest : List FifoEntry} {e : FifoEntry} (h : verifyLast fifo = e :: rest) :
    ∃ x xs, fifo = x :: xs ∧ x.attached = e.attached ∧ x.groups = e.groups := by
  rcases List.eq_nil_or_concat fifo with rfl | ⟨front, x, rfl⟩
  · nomatch h
  · rw [List.concat_eq_append, verifyLast_concat] at h
    cases front with
    | nil =>
      split at h
      · nomatch h
      · cases h
        exact ⟨x, [], rfl, rfl, rfl⟩
    | cons y ys =>
      have hy : y = e := by
        split at h
        · exact (List.cons.inj h).1
        · exact (List.cons.inj h).1
      exact ⟨y, ys ++ [x], by simp, by rw [hy], by rw [hy]⟩

theorem verifyLast_single {e : FifoEntry} (h : e.attached = true) :
    verifyLast [e] = if e.groups = [] then [] else [{ e with verified := true }] := by
  rw [← List.nil_append [e], verifyLast_concat, h, Bool.true_and]
  exact if_congr List.isEmpty_iff rfl rfl

theorem isCandidate_verified {s u : State} {l k : LinkId} (he : u.engine = s.engine)
    (hk : ∀ j, j ≠ l → (u.receivers.get j).fifo = (s.receivers.get j).fifo)
    (hl : (u.receivers.get l).fifo = verifyLast (s.receivers.get l).fifo) (h : isCandidate s k = false) :
    isCandidate u k = false := by
  rw [← Bool.not_eq_true, isCandidate_iff] at h ⊢
  rintro ⟨r, e, rest, hr, hacc, hfifo, ha, hg⟩
  rw [he] at hr
  by_cases hkl : k = l
  · subst hkl
    obtain ⟨x, xs, hx, hxa, hxg⟩ := head_of_verifyLast (hl.symm.trans hfifo)
    exact h ⟨r, x, xs, hr, hacc, hx, hxa.trans ha, by rwa [hxg]⟩
  · exact h ⟨r, e, rest, hr, hacc, by rwa [hk k hkl] at hfifo, ha, hg⟩

theorem afterDeparture_gathering {s : State} {o : OpenRecord} {l : LinkId} (hs : s.manager.state = .gathering)
    (ho : s.manager.openRecord = some o) (hst : o.statuses.get l ≠ some .waiting)
    (hc : s.engine.inFlight ≠ none ∨ ∀ k, isCandidate s k = false) : afterDeparture l s = s := by
  rw [afterDeparture, offerHead_refused l s (.inr (by rw [statusOf, ho]; exact hst)),
    evalLead_unmet s (leadCondition_eq_false.mpr (.inr (.inl (by rw [hs]; nofun)))), engineChoose_settled s hc]

theorem afterDeparture_closed {s : State} {o : OpenRecord} (l : LinkId) (c : CloseCause)
    (ho : s.manager.openRecord = some o) : afterDeparture l (closeCycle c s) = closeCycle c s := by
  have hclosing : (closeCycle c s).manager.state = .closing := by rw [closeCycle_manager c s o ho]
  rw [afterDeparture, offerHead_refused l _ (.inl (by rw [hclosing]; nofun)),
    evalLead_unmet _ (leadCondition_eq_false.mpr (.inr (.inl (by rw [hclosing]; nofun)))),
    engineChoose_settled _ (.inr (closeCycle_isCandidate c ho))]

/-- A frame verified before its last group waits for the groups. -/
theorem verified_waitsGroups {s : State} {o : OpenRecord} {l : LinkId} {x : Bool} (hs : s.manager.state = .gathering)
    (ho : s.manager.openRecord = some o) (hst : o.statuses.get l = some (.attached x false))
    (hc : s.engine.inFlight ≠ none ∨ ∀ k, isCandidate s k = false) : afterDeparture l (reportVerified l s) =
      { s with manager := { s.manager with
        openRecord := some { o with statuses := o.statuses.set l (some (.attached true false)) } } } := by
  rw [reportVerified_attached ho hst, show reportedStatus true false = .attached true false from rfl,
    closeIfComplete_setStatus (x := .attached true false) ho (by simp), setStatus_open _ _ ho]
  refine afterDeparture_gathering (o := { o with
    statuses := o.statuses.set l (some (.attached true false)) }) hs rfl ?_ hc
  rw [Quad.get_set_self]
  nofun

/-- A frame verified after its last group arrives, and waits for the other slots. -/
theorem verified_waitsOthers {s : State} {o : OpenRecord} {l k : LinkId} {x : Bool} (hs : s.manager.state = .gathering)
    (ho : s.manager.openRecord = some o) (hst : o.statuses.get l = some (.attached x true)) (hk : k ≠ l)
    (hn : o.statuses.get k ≠ none) (hna : o.statuses.get k ≠ some .arrived)
    (hc : s.engine.inFlight ≠ none ∨ ∀ k, isCandidate s k = false) : afterDeparture l (reportVerified l s) =
      { s with manager := { s.manager with
        openRecord := some { o with statuses := o.statuses.set l (some .arrived) } } } := by
  rw [reportVerified_attached ho hst, show reportedStatus true true = .arrived from rfl,
    closeIfComplete_setArrived ho hk hn hna, setStatus_open _ _ ho]
  refine afterDeparture_gathering (o := { o with statuses := o.statuses.set l (some .arrived) }) hs rfl ?_ hc
  rw [Quad.get_set_self]
  nofun

/-- The verified frame of the last slot closes the cycle, with the contribution held of a slot in use. -/
theorem verifiedLast_closes {d : State} {o : OpenRecord} {l : LinkId} {x : Bool} (hs : d.manager.state = .gathering)
    (ho : d.manager.openRecord = some o) (hst : o.statuses.get l = some (.attached x true))
    (hothers : ∀ k, k ≠ l → o.statuses.get k = none ∨ o.statuses.get k = some .arrived) :
    ∃ t, afterDeparture l (reportVerified l d) = t ∧ d.closesComplete t o l ∧
      t.engine.inFlight = d.engine.inFlight ∧ t.engine.held.get l =
        if (d.slots.get l).enabled then d.engine.fresh.get l else d.engine.held.get l := by
  have hopen : (setStatus l .arrived d).manager.openRecord =
      some { o with statuses := o.statuses.set l (some .arrived) } := by rw [setStatus_open l .arrived ho]
  obtain ⟨hengine, -⟩ := closeCycle_engine .complete _ _ hopen
  have hselection : (closeSelections (o.statuses.set l (some .arrived)) (setStatus l .arrived d).slots).get l =
      (closeSlot (some .arrived) (d.slots.get l)).selection := by
    rw [setStatus_open l .arrived ho]
    simp [closeSelections]
  refine ⟨_, ?_, closesComplete_of_lastArrival d d.engine o l ho hothers (fun _ _ => ⟨rfl, rfl⟩), ?_, ?_⟩
  · rw [reportVerified_attached ho hst, show reportedStatus true true = .arrived from rfl,
      closeIfComplete_lastArrival hs ho hothers]
    exact afterDeparture_closed l .complete hopen
  · exact (congrArg Engine.inFlight hengine).trans (by rw [setStatus_engine]; rfl)
  · refine (congrArg (fun e => e.held.get l) hengine).trans ?_
    rw [setStatus_engine, Engine.close, Quad.get_tabulate, hselection]
    cases hen : (d.slots.get l).enabled with
    | true => rw [if_pos (closeSlot_arrived _ hen).1, if_pos rfl]
    | false =>
      rw [(closeSlot_notExpected (some .arrived) _ (.inl hen)).2]
      simp [hen]

/-- Settles O20: the good end of a notice, of a frame not stored, and of a stored frame. -/
theorem noticesMuteAndUnmute : Obligations.NoticesMuteAndUnmute := by
  rintro s v u l window good f h hd ht hcrc rfl hu
  obtain ⟨hmanager, hslots, hengine, hfifos, hothers⟩ := afterGood_keeps s l ((false :: window).take 16) good
  have hu' : s.afterGood l ((false :: window).take 16) good = u := hu.symm
  rw [hu'] at hmanager hslots hengine hfifos hothers
  refine ⟨fun hf hkind n hn => ?_, fun hf hkind => ?_, fun hf c hc => ?_⟩
  · have hrun := exec_goodDiscarded h hd ht hcrc hf
    rw [hu', if_neg (by rw [f.isData_iff, hkind]; decide)] at hrun
    have hnoticed : u.noticed l = n := hn.symm
    have hnslots : n.slots = s.slots := by rw [hn, ← hslots]; rfl
    have hnmanager : n.manager = s.manager := by rw [hn, ← hmanager]; rfl
    have hnfifo : ∀ k, (n.receivers.get k).fifo = (s.receivers.get k).fifo := by
      intro k
      rw [hn, State.onReceiver_receivers, quadModify_get, ← hfifos k]
      split
      · next hk => rw [hk]
      · rfl
    refine ⟨fun hw => ⟨fun he hm => ?_, fun hno => ?_⟩, fun hw => ⟨fun hm => ⟨fun hlead => ?_, fun ha hmode hlead hfifo => ?_⟩,
      fun hm hlead => ?_⟩⟩
    · rw [hrun, takeNotice_mutes l u hw, hnoticed, muteSlot_mutes (by rw [hnslots, he]) (by rw [hnslots, hm])]
    · rw [hrun, takeNotice_mutes l u hw, hnoticed, muteSlot_kept (by rwa [hnslots])]
    · rw [hrun, takeNotice_unmutes l u hw, hnoticed, unmute_waits (by rw [hnslots, hm])
        (by rwa [hnmanager, hnslots, hnfifo])]
    · rw [takeNotice_unmutes l u hw, hnoticed] at hrun
      obtain ⟨t, o, hopens, hrest⟩ := unmute_opensLead (s := n) (l := l) (by rw [hnslots, hm]) (by rw [hnmanager, ha])
        (by rw [hnmanager, hmode]) (by rw [hnmanager, hlead]) (by rwa [hnfifo])
      rw [hnmanager, hnslots] at hrest
      exact ⟨t, o, hopens ▸ hrun, hrest⟩
    · rw [hrun, takeNotice_unmutes l u hw, hnoticed, unmuteSlot_kept (by rw [hnslots, hm]),
        evalLead_unmet n (leadCondition_eq_false.mpr ?_)]
      rw [hnmanager, hnslots, hnfifo]
      rcases hlead with hlead | hlead | hlead | hlead
      · exact .inr (.inl hlead)
      · exact .inl hlead
      · exact .inr (.inr (.inr hlead))
      · exact .inr (.inr (.inl hlead))
  · have hrun := exec_goodDiscarded h hd ht hcrc hf
    rw [hu', if_pos (f.isData_iff.mpr hkind), checkSequence_eq] at hrun
    exact hrun
  · rw [← checkSequence_eq] at hc
    have hcmanager : c.manager = s.manager := by rw [hc, ← hmanager]; rfl
    have hcslots : c.slots = s.slots := by rw [hc, ← hslots]; rfl
    have hcengine : c.engine = s.engine := by rw [hc, ← hengine]; rfl
    have hcothers : ∀ k, k ≠ l → c.receivers.get k = s.receivers.get k := by
      intro k hk
      rw [hc, State.onReceiver_receivers, quadModify_get_ne _ _ hk, hothers k hk]
    set t := c.onReceiver l (fun r => { r with fifo := verifyLast (s.receivers.get l).fifo }) with ht'
    have hrun := exec_goodStored h hd ht hcrc hf (t := t) (by rw [ht', hc, hu'])
    have htothers : ∀ k, k ≠ l → t.receivers.get k = s.receivers.get k := by
      intro k hk
      rw [ht', State.onReceiver_receivers, quadModify_get_ne _ _ hk, hcothers k hk]
    have htfifo : (t.receivers.get l).fifo = verifyLast (s.receivers.get l).fifo := by
      rw [ht', State.onReceiver_receivers, quadModify_get_self]
    have hcandidates : ∀ k, isCandidate s k = false → isCandidate t k = false :=
      fun k => isCandidate_verified hcengine (fun j hj => by rw [htothers j hj]) htfifo
    refine ⟨fun front e hfifo ha hset => ?_, fun e o x g hfifo ha hs ho hst hidle d hd' => ?_⟩
    · have hsettled : afterDeparture l t = t :=
        afterDeparture_settled l s t hset (congrArg Manager.state hcmanager) (congrArg Manager.settings hcmanager)
          (congrArg Manager.openRecord hcmanager) hcslots hcengine htothers
          (fun hnil => by rw [hfifo] at hnil; simp at hnil) (hcandidates l)
      rw [hrun, hfifo, lastAttached_concat, ha, if_neg nofun, hsettled, ht', hfifo, verifyLast_concat, ha,
        Bool.false_and, if_neg nofun]
    · have hdt : d = t := by rw [hd', ht', hfifo, verifyLast_single ha]
      have hlast : lastAttached (s.receivers.get l).fifo = true := by rw [hfifo]; exact ha
      rw [hlast, if_pos rfl] at hrun
      rw [hdt]
      have hts : t.manager.state = .gathering := (congrArg Manager.state hcmanager).trans hs
      have hto : t.manager.openRecord = some o := (congrArg Manager.openRecord hcmanager).trans ho
      have htidle : t.engine.inFlight ≠ none ∨ ∀ k, isCandidate t k = false :=
        hidle.imp (fun hbusy => by rwa [← hcengine] at hbusy) (fun hnone k => hcandidates k (hnone k))
      refine ⟨fun hg => ?_, fun hg hwait => ?_, fun hg hall => ?_⟩
      · rw [hrun, verified_waitsGroups hts hto (hg ▸ hst) htidle]
      · obtain ⟨k, hk, hn, hna⟩ := hwait
        rw [hrun, verified_waitsOthers hts hto (hg ▸ hst) hk hn hna htidle]
      · obtain ⟨w, hw, hcloses, hflight, hheld⟩ := verifiedLast_closes hts hto (hg ▸ hst) hall
        have htslots : t.slots = s.slots := hcslots
        have htengine : t.engine = s.engine := hcengine
        rw [htslots, htengine] at hheld
        exact ⟨w, by rw [hrun, hw], hcloses, hflight.trans (by rw [htengine]), hheld⟩

end Sys2Proof.Machine

/-!
SUPPORT. The end of a close computation: the results handed out, the trip, the request and the apply taken.
-/
namespace Sys2Proof.Machine

/-! ## The boundary (R20) -/

theorem exec_closeComputationEnd {s : State} {w : WorkingSet} {o : OpenRecord} {info : CloseInfo}
    (h : s.resetActs = false) (hw : s.command.working = some w) (ho : s.manager.openRecord = some o)
    (hinfo : o.closing = some info) :
    exec .closeComputationEnd s = .next (boundary (handResults w o.opened info s)) := by
  rw [exec_running _ h, whenRunning, closeComputationEnd, hw, ho]
  dsimp only
  rw [hinfo]

/-- The state at a boundary with the pending apply, and then the trip or the request, taken. -/
def State.pendingTaken (s : State) : State := takePendingLoop (takePendingApply s)

theorem boundary_eq (s : State) : boundary s = leaveBoundary (takeHeldSettings s.pendingTaken) := rfl

theorem boundary_results (s : State) : (boundary s).loop = s.pendingTaken.loop ∧ (boundary s).ports = s.pendingTaken.ports ∧
    (boundary s).stores = s.pendingTaken.stores ∧ (boundary s).command.u = s.pendingTaken.command.u ∧
    (boundary s).command.d = s.pendingTaken.command.d ∧
    (boundary s).command.actuatorCount = s.pendingTaken.command.actuatorCount ∧
    (boundary s).mirror = s.pendingTaken.mirror.takeHeld ∧
    (boundary s).manager.lastRecord = s.pendingTaken.manager.lastRecord := by
  obtain ⟨hloop, hports, hstores, hu, hd, hcount, hmirror, hlast⟩ := leaveBoundary_keepsOthers (takeHeldSettings s.pendingTaken)
  obtain ⟨kloop, kports, kstores, ku, kd, kcount, kmirror, klast⟩ := takeHeldSettings_keepsOthers s.pendingTaken
  exact ⟨hloop.trans kloop, hports.trans kports, hstores.trans kstores, hu.trans ku, hd.trans kd, hcount.trans kcount,
    hmirror.trans kmirror, hlast.trans klast⟩

theorem takePendingLoop_trip {s : State} {c : PendingTrip} (h : s.loop.trip = some c) : takePendingLoop s = takeTrip c s := by
  rw [takePendingLoop, h]

theorem takePendingLoop_request {s : State} {r : LoopRequest} (h : s.loop.trip = none) (hr : s.loop.request = some r) :
    takePendingLoop s = takeRequest r.target r.port s := by
  rw [takePendingLoop, h, hr]

theorem takePendingLoop_none {s : State} (h : s.loop.trip = none) (hr : s.loop.request = none) : takePendingLoop s = s := by
  rw [takePendingLoop, h, hr]

/-- A boundary that leaves the loop running enters ARMED or opens a cycle. -/
theorem boundary_state {s : State} (h : s.pendingTaken.loop.loop ≠ .idle) : (boundary s).manager.state ≠ .idle := by
  obtain ⟨kloop, -⟩ := takeHeldSettings_keepsOthers s.pendingTaken
  rw [boundary_eq, leaveBoundary, if_neg (by rwa [kloop])]
  exact enterArmed_state _

/-- A boundary that stops the loop leaves the manager IDLE and the receivers empty. -/
theorem boundary_stops {s : State} (h : s.pendingTaken.loop.loop = .idle) : (boundary s).manager.state = .idle ∧
    ∀ l, ((boundary s).receivers.get l).fifo = [] ∧ ((boundary s).receivers.get l).flow = .go := by
  obtain ⟨kloop, -⟩ := takeHeldSettings_keepsOthers s.pendingTaken
  rw [boundary_eq, leaveBoundary, if_pos (by rwa [kloop]), stopCycles, flushReceivers_eq, managerToIdle_eq]
  exact ⟨rfl, fun l => by rw [Quad.get_map]; exact ⟨rfl, rfl⟩⟩

/-! ## The events of a boundary -/

/-- The event of a full offload window (R38). -/
def State.readyEvents (s : State) (cycle : Counter) : List EventSubject :=
  if s.offload.settings.window ≠ 0 ∧ s.offload.settings.window ≤ s.offload.count + 1 then
    [.offloadReady cycle s.offload.settings.window]
  else []

theorem offloadClose_events (cycle : Counter) (s : State) :
    SameEvents ((s.readyEvents cycle).foldl (fun u x => u.post x) s) (offloadClose cycle s) := by
  rw [offloadClose, State.readyEvents]
  by_cases hw : s.offload.settings.window = 0
  · rw [if_neg (fun hboth => hboth.1 hw)]
    dsimp only
    rw [if_pos hw]
    exact SameEvents.refl s
  · by_cases hc : s.offload.settings.window ≤ s.offload.count + 1
    · rw [if_pos ⟨hw, hc⟩]
      dsimp only
      rw [if_neg hw, if_pos hc]
      exact SameEvents.post _ (SameEvents.of rfl rfl rfl)
    · rw [if_neg (fun hboth => hc hboth.2)]
      dsimp only
      rw [if_neg hw, if_neg hc]
      exact SameEvents.of rfl rfl rfl

/-- The results handed out post the event of a full window alone. -/
theorem handResults_events (w : WorkingSet) (o : OpenInfo) (info : CloseInfo) (s : State) :
    SameEvents ((s.readyEvents o.cycle).foldl (fun u x => u.post x) s) (handResults w o info s) := by
  set v := (s.onCommand (CommandUnit.commit (closeResult w))).onMirror (handOver (closedVector (closeResult w) w o.cycle))
    with hv
  have hclose : SameEvents ((s.readyEvents o.cycle).foldl (fun u x => u.post x) v) (offloadClose o.cycle v) :=
    offloadClose_events o.cycle v
  have hcommit : SameEvents s v := SameEvents.of rfl rfl rfl
  have hrecord : SameEvents (offloadClose o.cycle v) (handResults w o info s) := SameEvents.of rfl rfl rfl
  exact ((hcommit.posts _).trans hclose).trans hrecord

theorem takePendingApply_events (s : State) : SameEvents s (takePendingApply s) := by
  rw [takePendingApply]
  split
  · exact SameEvents.refl s
  · exact (SameEvents.of rfl rfl rfl).trans (SameEvents.answer _ _)

theorem takeRequest_events (t : RequestTarget) (p : PortId) (s : State) :
    SameEvents (s.post (.loopChange s.loop.loop t.loopState (.request p))) (takeRequest t p s) :=
  (SameEvents.post _ (SameEvents.of rfl rfl rfl)).trans (SameEvents.answer _ _)

theorem takeTrip_events {s : State} (t : PendingTrip) (h : s.loop.loop = .closed) :
    SameEvents (s.post (.loopChange .closed .frozen (.trip t.cause t.additional))) (takeTrip t s) := by
  rw [takeTrip_closed t h]
  exact SameEvents.post _ (SameEvents.of rfl rfl rfl)

/-- The events of a boundary: the ready event, then those of the trip or request. -/
theorem boundary_events {w : WorkingSet} {o : OpenInfo} {info : CloseInfo} {s : State} {xs : List EventSubject}
    (h : SameEvents (xs.foldl (fun u x => u.post x) (takePendingApply (handResults w o info s)))
      (handResults w o info s).pendingTaken) :
    ∀ q, ∀ ready : List EventSubject, ready = s.readyEvents o.cycle →
      ((boundary (handResults w o info s)).ports.get q).queue =
          (((ready ++ xs).foldl (fun u x => u.post x) s).ports.get q).queue ∧
        ((boundary (handResults w o info s)).ports.get q).lost =
          (((ready ++ xs).foldl (fun u x => u.post x) s).ports.get q).lost := by
  rintro q ready rfl
  obtain ⟨hports, -⟩ := (boundary_results (handResults w o info s)).2
  rw [hports, List.foldl_append]
  exact ((((handResults_events w o info s).trans (takePendingApply_events _)).posts xs).trans h).1 q

/-- What a boundary finds of the loop and the manager is what the close found. -/
theorem takePendingApply_handResults (w : WorkingSet) (o : OpenInfo) (info : CloseInfo) (s : State) :
    (takePendingApply (handResults w o info s)).loop = s.loop ∧
      (takePendingApply (handResults w o info s)).manager = { s.manager with
        lastRecord := some { opened := o, close := info, counts := (closeResult w).counts }
        openRecord := none } ∧
      (takePendingApply (handResults w o info s)).command = s.command.commit (closeResult w) ∧
      (takePendingApply (handResults w o info s)).mirror =
        handOver (closedVector (closeResult w) w o.cycle) s.mirror := by
  obtain ⟨hloop, -, hcommand, hmirror, hmanager⟩ := handResults_spec w o info s
  obtain ⟨kmanager, kcommand, kloop, kmirror⟩ := takePendingApply_keepsOthers (handResults w o info s)
  exact ⟨kloop.trans hloop, kmanager.trans hmanager, kcommand.trans hcommand, kmirror.trans hmirror⟩

theorem loopState_idle_iff (t : RequestTarget) : t.loopState = .idle ↔ t = .stop := by
  cases t <;> simp [RequestTarget.loopState]

/-- Settles O26: the trip first, else the request, else neither. -/
theorem boundaryTakesTripOrRequest : Obligations.BoundaryTakesTripOrRequest := by
  rintro s w o info posts h rfl hw ho hinfo hrunning
  refine ⟨_, exec_closeComputationEnd h hw ho hinfo, fun c hc hclosed => ?_, fun tg p hnone hr => ?_, fun hnone hr => ?_⟩ <;>
    obtain ⟨kloop, kmanager, -, -⟩ := takePendingApply_handResults w o.opened info s <;>
    obtain ⟨bloop, bports, -⟩ := boundary_results (handResults w o.opened info s)
  · have htaken : (handResults w o.opened info s).pendingTaken = _ :=
      (takePendingLoop_trip (by rw [kloop, hc])).trans (takeTrip_closed c (by rw [kloop, hclosed]))
    refine ⟨?_, boundary_state (by rw [htaken]; nofun), boundary_events ?_⟩
    · rw [bloop, htaken, State.post_loop, State.onLoop_loop, kloop, kmanager]
    · rw [State.pendingTaken, takePendingLoop_trip (by rw [kloop, hc])]
      exact takeTrip_events c (by rw [kloop, hclosed])
  · have htaken : (handResults w o.opened info s).pendingTaken = _ :=
      takePendingLoop_request (by rw [kloop, hnone]) (by rw [kloop, hr])
    have hloop : (handResults w o.opened info s).pendingTaken.loop =
        { s.loop with loop := tg.loopState, request := none } := by
      rw [htaken, ← kloop]
      rfl
    rw [bloop, hloop]
    refine ⟨by cases tg <;> rfl, ?_, ⟨fun hidle => ?_, fun hstop => ?_⟩, fun hstop => ?_, boundary_events ?_⟩
    · rw [bports, htaken, takeRequest, State.complete, State.answer, State.onPort_ports, Pair.get_set_self, kloop,
        kmanager]
      rfl
    · by_contra hne
      exact boundary_state (by rw [hloop]; exact fun hl => hne ((loopState_idle_iff tg).mp hl)) hidle
    · exact (boundary_stops (by rw [hloop]; exact (loopState_idle_iff tg).mpr hstop)).1
    · exact (boundary_stops (by rw [hloop]; exact (loopState_idle_iff tg).mpr hstop)).2
    · rw [htaken, ← kloop]
      exact takeRequest_events tg p _
  · have htaken : (handResults w o.opened info s).pendingTaken = _ :=
      takePendingLoop_none (by rw [kloop, hnone]) (by rw [kloop, hr])
    refine ⟨by rw [bloop, htaken, kloop], boundary_state (by rwa [htaken, kloop]), boundary_events ?_⟩
    rw [htaken]
    exact SameEvents.refl _

/-! ## The pending apply at a boundary (R41) -/

theorem takePendingApply_some {s : State} {a : PendingApply} (h : s.stores.pendingApply = some a) :
    takePendingApply s = takeApply a.selection a.port (s.onStores (fun c => { c with pendingApply := none })) := by
  rw [takePendingApply, h]

theorem takeTrip_activity (c : PendingTrip) (s : State) (p : PortId) :
    ((takeTrip c s).ports.get p).activity = (s.ports.get p).activity := by
  rw [takeTrip]
  split
  · exact post_activity _ _ _
  · rfl

/-- Taking the trip or the request changes the result of no port but the requester's. -/
theorem takePendingLoop_activity {s : State} {p : PortId} (h : ∀ r, s.loop.request = some r → r.port ≠ p) :
    ((takePendingLoop s).ports.get p).activity = (s.ports.get p).activity := by
  cases ht : s.loop.trip with
  | some c => rw [takePendingLoop_trip ht, takeTrip_activity]
  | none =>
    cases hr : s.loop.request with
    | none => rw [takePendingLoop_none ht hr]
    | some r =>
      rw [takePendingLoop_request ht hr, takeRequest, State.complete, State.answer, State.onPort_ports,
        Pair.get_set_ne _ _ (h r hr).symm]
      exact post_activity _ _ _

/-- Settles O27: the exchange is made, and answered at the port that asked for it. -/
theorem boundaryTakesApply : Obligations.BoundaryTakesApply := by
  intro s w o info a h hw ho hinfo ha
  refine ⟨_, exec_closeComputationEnd h hw ho hinfo, ?_⟩
  obtain ⟨-, bports, bstores, -⟩ := boundary_results (handResults w o.opened info s)
  obtain ⟨hloop, hstores, -⟩ := handResults_spec w o.opened info s
  have happly := takePendingApply_some (s := handResults w o.opened info s) (by rw [hstores, ha])
  have hexchange : (handResults w o.opened info s).pendingTaken.stores =
      exchange a.selection { s.stores with pendingApply := none } := by
    obtain ⟨-, -, kstores, -⟩ := takePendingLoop_keepsOthers (takePendingApply (handResults w o.opened info s))
    rw [State.pendingTaken, kstores, happly, takeApply_stores, State.onStores, hstores]
  rw [bstores, hexchange, bports]
  refine ⟨rfl, rfl, rfl, fun id hid => exchange_of_selected { s.stores with pendingApply := none } hid,
    fun id hid => exchange_of_not_selected { s.stores with pendingApply := none } hid, fun hport => ?_⟩
  obtain ⟨kloop, -⟩ := takePendingApply_handResults w o.opened info s
  rw [State.pendingTaken, takePendingLoop_activity (by rwa [kloop]), happly, takeApply, State.complete, State.answer,
    State.onPort_ports, Pair.get_set_self]
  simp only [State.onStores, hstores, codeApply]

end Sys2Proof.Machine

/-!
SUPPORT. What a boundary leaves of the settings, whether or not it opens a cycle; and the change of mode at a boundary.
-/
namespace Sys2Proof.Machine

/-! ## Steps that may open a cycle -/

/-- From `s` to `t` a cycle may have opened: the settings are kept, and with no cycle opened the slots and the probe are. -/
structure MayOpen (s t : State) : Prop where
  slots : ∀ l, (t.slots.get l).policy = (s.slots.get l).policy ∧ (t.slots.get l).heldPolicy = (s.slots.get l).heldPolicy
  probe : t.probe.mode = s.probe.mode ∧ t.probe.held = s.probe.held
  timing : t.manager.settings = s.manager.settings ∧ t.manager.held = s.manager.held
  unopened : t.manager.openRecord = none → s.manager.openRecord = none ∧ t.slots = s.slots ∧ t.probe = s.probe

theorem MayOpen.refl (s : State) : MayOpen s s := ⟨fun _ => ⟨rfl, rfl⟩, ⟨rfl, rfl⟩, ⟨rfl, rfl⟩, fun h => ⟨h, rfl, rfl⟩⟩

theorem MayOpen.trans {s t u : State} (h : MayOpen s t) (k : MayOpen t u) : MayOpen s u := by
  refine ⟨fun l => ⟨(k.slots l).1.trans (h.slots l).1, (k.slots l).2.trans (h.slots l).2⟩,
    ⟨k.probe.1.trans h.probe.1, k.probe.2.trans h.probe.2⟩, ⟨k.timing.1.trans h.timing.1, k.timing.2.trans h.timing.2⟩,
    fun hu => ?_⟩
  obtain ⟨ht, hslots, hprobe⟩ := k.unopened hu
  obtain ⟨hs, hslots', hprobe'⟩ := h.unopened ht
  exact ⟨hs, hslots.trans hslots', hprobe.trans hprobe'⟩

/-- A change outside the slots and the probe, and within the manager outside the settings and the record. -/
theorem MayOpen.of {s t : State} (hslots : t.slots = s.slots) (hprobe : t.probe = s.probe)
    (hsettings : t.manager.settings = s.manager.settings) (hheld : t.manager.held = s.manager.held)
    (hrecord : t.manager.openRecord = s.manager.openRecord) : MayOpen s t :=
  ⟨fun l => by rw [hslots]; exact ⟨rfl, rfl⟩, by rw [hprobe]; exact ⟨rfl, rfl⟩, ⟨hsettings, hheld⟩,
    fun h => ⟨hrecord.symm.trans h, hslots, hprobe⟩⟩

theorem probeAdvance_keeps (g : ProbeGenerator) : g.advance.mode = g.mode ∧ g.advance.held = g.held := by
  rw [ProbeGenerator.advance]
  split <;> exact ⟨rfl, rfl⟩

theorem closeCycle_probe {s : State} {o : OpenRecord} (c : CloseCause) (h : s.manager.openRecord = some o) :
    (closeCycle c s).probe = s.probe.advance := by
  rw [closeCycle, h]
  exact congrArg ProbeGenerator.advance (treatSlots_command o s).2

theorem openCycle_probe (c : OpenCause) (b : Bool) (s : State) :
    (openCycle c b s).probe.mode = s.probe.mode ∧ (openCycle c b s).probe.held = s.probe.held := by
  rw [openCycle]
  dsimp only
  split
  · rw [closeCycle_probe (o := newRecord c b s) .complete rfl]
    exact probeAdvance_keeps s.probe
  · simp

theorem advance_policy (x : Slot) : x.advance.policy = x.policy ∧ x.advance.heldPolicy = x.heldPolicy := by
  rw [Slot.advance]
  split <;> exact ⟨rfl, rfl⟩

theorem mayOpen_openCycle (c : OpenCause) (b : Bool) (s : State) : MayOpen s (openCycle c b s) := by
  obtain ⟨o, ho, -, hslots, -, -, -, -, -, hmanager, -⟩ := openCycle_spec c b s
  refine ⟨fun l => ?_, openCycle_probe c b s, ?_, fun hnone => ?_⟩
  · rw [hslots, Quad.get_map]
    exact advance_policy _
  · rw [hmanager]
    exact ⟨rfl, rfl⟩
  · rw [ho] at hnone
    nomatch hnone

theorem mayOpen_evalLead (s : State) : MayOpen s (evalLead s) := by
  rw [evalLead]
  split
  · exact mayOpen_openCycle _ _ _
  · exact .refl s

theorem mayOpen_produceTrigger (c : LatchedCause) (s : State) : MayOpen s (produceTrigger c s) := by
  have hlatch : MayOpen s (latchTrigger c s) := by
    rw [latchTrigger]
    split <;> exact .of rfl rfl rfl rfl rfl
  rw [produceTrigger]
  cases s.manager.state
  · exact .refl s
  · exact mayOpen_openCycle _ _ _
  · exact hlatch
  · exact hlatch

theorem mayOpen_filterTakes (s : State) : MayOpen s (filterTakes s) := by
  have hline : MayOpen s { s with line := { s.line with filtered := s.line.raw, measuring := none } } :=
    .of rfl rfl rfl rfl rfl
  have hedge : ∀ u, MayOpen u (passEdge u) := by
    intro u
    rw [passEdge]
    cases u.manager.lineDelay with
    | some r => exact .of rfl rfl rfl rfl rfl
    | none =>
      dsimp only
      split
      · exact mayOpen_produceTrigger _ _
      · exact .of rfl rfl rfl rfl rfl
  rw [filterTakes]
  split
  · exact hline
  · refine hline.trans ?_
    rw [filteredEdge]
    split
    · exact hedge _
    · exact .refl _

theorem mayOpen_changeFilter (old : TimingSettings) (s : State) : MayOpen s (changeFilter old s) := by
  rw [changeFilter, startMeasuring]
  repeat' split
  · exact .of rfl rfl rfl rfl rfl
  · exact mayOpen_filterTakes s
  · exact .of rfl rfl rfl rfl rfl
  · exact .refl s

theorem mayOpen_changeMode (old : TriggerMode) (s : State) : MayOpen s (changeMode old s) := by
  have hstop : MayOpen s (stopModeTimer old s) := by
    rw [stopModeTimer.eq_def]
    cases old <;> exact .of rfl rfl rfl rfl rfl
  have hdrop : ∀ u, MayOpen u (dropLatch u) := fun u => .of rfl rfl rfl rfl rfl
  have hperiod : ∀ u, MayOpen u (startPeriod u) := by
    intro u
    rw [startPeriod]
    split
    · exact .of rfl rfl rfl rfl rfl
    · exact .refl u
  rw [changeMode]
  split
  · exact .refl s
  · exact (hstop.trans (hdrop _)).trans (hperiod _)

theorem mayOpen_startFallback (s : State) : MayOpen s (startFallback s) := by
  rw [startFallback_eq]
  exact .of rfl rfl rfl rfl rfl

theorem mayOpen_leadInForce (s : State) : MayOpen s (leadInForce s) := by
  rw [leadInForce]
  split
  · split
    · exact (mayOpen_startFallback s).trans (mayOpen_evalLead _)
    · exact mayOpen_evalLead s
  · exact .refl s

/-- The state with the held timing settings in force, before a change of mode acts. -/
def State.heldTiming (s : State) : State :=
  s.onManager (fun m => { m with settings := m.held.getD m.settings, held := none })

theorem heldTiming_none {s : State} (h : s.manager.held = none) : s.heldTiming = s := by
  refine onManager_eq_self ?_
  cases hm : s.manager
  rw [hm] at h
  cases h
  rfl

theorem heldTiming_some {s : State} {x : TimingSettings} (h : s.manager.held = some x) :
    s.heldTiming = s.onManager (Manager.withTiming x) := by
  rw [State.heldTiming, State.onManager, h]
  rfl

theorem mayOpen_takeHeldTiming (s : State) : MayOpen s.heldTiming (takeHeldTiming s) := by
  rw [takeHeldTiming]
  cases h : s.manager.held with
  | none => rw [heldTiming_none h]; exact .refl s
  | some x =>
    rw [heldTiming_some h]
    dsimp only
    rw [applyTiming_eq]
    exact ((mayOpen_changeMode _ _).trans (mayOpen_changeFilter _ _)).trans (mayOpen_leadInForce _)

theorem mayOpen_enterArmed (s : State) : MayOpen s (enterArmed s) := by
  have harmed : MayOpen s (s.onManager (fun m => { m with state := .armed })) := .of rfl rfl rfl rfl rfl
  rw [enterArmed]
  cases s.manager.latch with
  | some c =>
    refine MayOpen.trans ?_ (mayOpen_openCycle _ _ _)
    exact .of rfl rfl rfl rfl rfl
  | none =>
    dsimp only
    split
    · split
      · exact harmed.trans (mayOpen_openCycle _ _ _)
      · exact harmed.trans (mayOpen_startFallback _)
    · exact harmed

theorem mayOpen_leaveBoundary (s : State) : MayOpen s (leaveBoundary s) := by
  rw [leaveBoundary]
  split
  · rw [stopCycles, managerToIdle_eq]
    exact .of rfl rfl rfl rfl rfl
  · exact mayOpen_enterArmed s

/-- A boundary takes the held settings, then may open a cycle. -/
theorem mayOpen_boundary (s : State) : MayOpen (takeHeldOthers s.pendingTaken).heldTiming (boundary s) := by
  rw [boundary_eq, takeHeldSettings_eq]
  exact (mayOpen_takeHeldTiming _).trans (mayOpen_leaveBoundary _)

/-! ## The outputs at a boundary -/

theorem leaveBoundary_outputs (s : State) :
    (leaveBoundary s).capture = s.capture ∧ (leaveBoundary s).offload = s.offload := by
  rw [leaveBoundary]
  split
  · exact ⟨rfl, rfl⟩
  · simp

theorem boundary_outputs (s : State) : (boundary s).capture = s.pendingTaken.capture.takeHeld ∧
    (boundary s).offload = s.pendingTaken.offload.takeHeld := by
  obtain ⟨hcapture, hoffload⟩ := leaveBoundary_outputs (takeHeldSettings s.pendingTaken)
  obtain ⟨-, -, -, -, kcapture, koffload, -⟩ := takeHeldTiming_keeps (takeHeldOthers s.pendingTaken)
  exact ⟨hcapture.trans kcapture, hoffload.trans koffload⟩

/-! ## What the close leaves at its boundary -/

theorem takePendingApply_rest (s : State) : (takePendingApply s).slots = s.slots ∧
    (takePendingApply s).probe = s.probe ∧ (takePendingApply s).capture = s.capture ∧
    (takePendingApply s).offload = s.offload ∧ (takePendingApply s).line = s.line ∧
    (takePendingApply s).receivers = s.receivers := by
  rw [takePendingApply]
  split <;> exact ⟨rfl, rfl, rfl, rfl, rfl, rfl⟩

theorem takePendingLoop_rest (s : State) : (takePendingLoop s).slots = s.slots ∧
    (takePendingLoop s).probe = s.probe ∧ (takePendingLoop s).capture = s.capture ∧
    (takePendingLoop s).offload = s.offload ∧ (takePendingLoop s).line = s.line ∧
    (takePendingLoop s).receivers = s.receivers := by
  cases ht : s.loop.trip with
  | some c =>
    rw [takePendingLoop_trip ht]
    obtain ⟨-, -, hline, -, hreceivers, hslots, -, -, -, hprobe, -, hcapture, hoffload⟩ := takeTrip_keeps c s
    exact ⟨hslots, hprobe, hcapture, hoffload, hline, hreceivers⟩
  | none =>
    cases hr : s.loop.request with
    | none =>
      rw [takePendingLoop_none ht hr]
      exact ⟨rfl, rfl, rfl, rfl, rfl, rfl⟩
    | some r =>
      rw [takePendingLoop_request ht hr]
      exact ⟨rfl, rfl, rfl, rfl, rfl, rfl⟩

theorem offloadClose_rest (c : Counter) (s : State) : (offloadClose c s).slots = s.slots ∧
    (offloadClose c s).probe = s.probe ∧ (offloadClose c s).capture = s.capture ∧ (offloadClose c s).line = s.line := by
  rw [offloadClose]
  dsimp only
  repeat' split
  all_goals exact ⟨rfl, rfl, rfl, rfl⟩

/-- The state a close hands its record and its outputs from. -/
def State.committed (s : State) (w : WorkingSet) (o : OpenInfo) : State :=
  (s.onCommand (CommandUnit.commit (closeResult w))).onMirror (handOver (closedVector (closeResult w) w o.cycle))

/-- The cycle record of a close. -/
def closeRecord (w : WorkingSet) (o : OpenInfo) (info : CloseInfo) : CycleRecord :=
  { opened := o, close := info, counts := (closeResult w).counts }

/-- The state at the boundary of a close, with the pending apply, the trip or the request taken. -/
structure AtBoundary (s : State) (w : WorkingSet) (o : OpenInfo) (info : CloseInfo) (u : State) : Prop where
  manager : u.manager = { s.manager with lastRecord := some (closeRecord w o info), openRecord := none }
  slots : u.slots = s.slots
  probe : u.probe = s.probe
  line : u.line = s.line
  receivers : u.receivers = s.receivers
  mirror : u.mirror = handOver (closedVector (closeResult w) w o.cycle) s.mirror
  capture : u.capture = (captureClose (closeRecord w o info) (offloadClose o.cycle (s.committed w o))).capture
  offload : u.offload = (offloadClose o.cycle (s.committed w o)).offload
  drive : u.command.d = (closeResult w).d
  count : u.command.actuatorCount = s.command.actuatorCount

theorem atBoundary (s : State) (w : WorkingSet) (o : OpenInfo) (info : CloseInfo) :
    AtBoundary s w o info (handResults w o info s).pendingTaken := by
  obtain ⟨kloop, kmanager, kcommand, kmirror⟩ := takePendingApply_handResults w o info s
  obtain ⟨lmanager, lmirror, -, ldrive, lcount⟩ := takePendingLoop_keepsOthers (takePendingApply (handResults w o info s))
  obtain ⟨lslots, lprobe, lcapture, loffload, lline, lreceivers⟩ := takePendingLoop_rest (takePendingApply (handResults w o info s))
  obtain ⟨aslots, aprobe, acapture, aoffload, aline, areceivers⟩ := takePendingApply_rest (handResults w o info s)
  obtain ⟨-, -, -, -, -, oreceivers, -⟩ := offloadClose_keepsOthers o.cycle (s.committed w o)
  obtain ⟨oslots, oprobe, -, oline⟩ := offloadClose_rest o.cycle (s.committed w o)
  exact ⟨lmanager.trans kmanager, lslots.trans (aslots.trans oslots), lprobe.trans (aprobe.trans oprobe),
    lline.trans (aline.trans oline), lreceivers.trans (areceivers.trans oreceivers), lmirror.trans kmirror,
    lcapture.trans acapture, loffload.trans aoffload,
    ldrive.trans (congrArg CommandUnit.d kcommand :), lcount.trans (congrArg CommandUnit.actuatorCount kcommand :)⟩

/-! ## The change of mode at a boundary (R12, R51) -/

/-- Out of ARMED and IDLE new timing settings change the manager alone. -/
theorem takeHeldTiming_closing {s : State} {x : TimingSettings} (hs : s.manager.state = .closing)
    (hx : s.manager.held = some x) (hm : s.line.measuring = none) :
    takeHeldTiming s = s.onManager (Manager.inMode x) := by
  rw [takeHeldTiming, hx]
  dsimp only
  rw [applyTiming_eq, changeMode_armed x (by rw [hs]; nofun),
    changeFilter_quiet (s := s.onManager (Manager.inMode x)) (.inl hm),
    leadInForce_unarmed (s := s.onManager (Manager.inMode x)) (.inr (by
      rw [State.onManager_manager, Manager.inMode, hs]
      nofun))]

/-- Entering ARMED with no trigger latched keeps the latch, the counters and the timers but that of the fallback. -/
theorem enterArmed_timers {s : State} (h : s.manager.latch = none) : (enterArmed s).manager.latch = none ∧
    (enterArmed s).manager.counters = s.manager.counters ∧ (enterArmed s).manager.lineDelay = s.manager.lineDelay ∧
    (enterArmed s).manager.period = s.manager.period ∧
    (s.manager.settings.mode ≠ .lead → (enterArmed s).manager.fallback = s.manager.fallback) := by
  cases hl : leadCondition (s.onManager (fun m => { m with state := .armed })) with
  | true =>
    have hlead := (leadCondition_eq_true.mp hl).1
    rw [enterArmed_lead h hl]
    obtain ⟨o, -, -, -, -, -, -, -, -, hmanager, -⟩ :=
      openCycle_spec .lead false (s.onManager (fun m => { m with state := .armed }))
    rw [hmanager]
    exact ⟨h, rfl, rfl, rfl, fun hn => absurd hlead hn⟩
  | false =>
    rcases leadCondition_eq_false.mp hl with hmode | harmed | hl
    · rw [enterArmed_waits h (.inl hmode)]
      exact ⟨h, rfl, rfl, rfl, fun hn => if_neg fun hc => hn hc.1⟩
    · exact absurd rfl harmed
    · rw [enterArmed_waits h (.inr hl)]
      exact ⟨h, rfl, rfl, rfl, fun hn => if_neg fun hc => hn hc.1⟩

/-- A boundary that changes the mode drops the latched trigger and stops the timer of the old mode. -/
theorem leaveBoundary_changesMode {s : State} {x : TimingSettings} (hs : s.manager.state = .closing)
    (hx : s.manager.held = some x) (hmode : x.mode ≠ s.manager.settings.mode) (hm : s.line.measuring = none)
    (hl : s.loop.loop ≠ .idle) :
    (leaveBoundary (takeHeldTiming s)).manager.latch = none ∧
      (leaveBoundary (takeHeldTiming s)).manager.counters = { s.manager.counters with
        droppedTriggers :=
          if s.manager.latch = none then s.manager.counters.droppedTriggers
          else Counter.increase s.manager.counters.droppedTriggers } ∧
      (leaveBoundary (takeHeldTiming s)).manager.lineDelay =
        (if s.manager.settings.mode = .line then none else s.manager.lineDelay) ∧
      (leaveBoundary (takeHeldTiming s)).manager.period =
        (if x.mode = .timer then some x.period
        else if s.manager.settings.mode = .timer then none else s.manager.period) ∧
      (s.manager.settings.mode = .lead → (leaveBoundary (takeHeldTiming s)).manager.fallback = none) := by
  obtain ⟨hlatch, hcounters, hdelay, hperiod, hfallback⟩ := enterArmed_timers (s := s.onManager (Manager.inMode x))
    (if_neg hmode)
  rw [takeHeldTiming_closing hs hx hm, leaveBoundary, if_neg (by rwa [State.onManager_loop]), hlatch, hcounters, hdelay,
    hperiod]
  refine ⟨rfl, ?_, ?_, if_neg hmode, fun hlead => ?_⟩
  · cases hl : s.manager.latch with
    | none => simp [Manager.inMode, hl]
    | some c => simp [Manager.inMode, hl, hmode]
  · simp [Manager.inMode, hmode]
  · rw [hfallback (fun hx => hmode (hx.trans hlead.symm))]
    exact if_pos ⟨hmode, hlead⟩

end Sys2Proof.Machine

/-!
SUPPORT. What a close commits and records: the drive, the mirror writeout, the offload window and the telemetry record.
-/
namespace Sys2Proof.Machine

/-! ## The held settings of the units -/

theorem mirrorTakeHeld_eq (m : MirrorLink) :
    m.takeHeld = { m with settings := m.held.getD m.settings, held := none } := by
  cases m with
  | mk activity pendingVector boards latest settings held counters line => cases held <;> rfl

theorem probeTakeHeld_eq (g : ProbeGenerator) : g.takeHeld.mode = g.held.getD g.mode ∧ g.takeHeld.held = none ∧
    g.takeHeld.position = if g.held = none then g.position else 0 := by
  rw [ProbeGenerator.takeHeld]
  cases h : g.held with
  | none => exact ⟨rfl, h, rfl⟩
  | some x => exact ⟨rfl, rfl, rfl⟩

theorem slotTakeHeld_eq (x : Slot) : x.takeHeld.policy = x.heldPolicy.getD x.policy ∧ x.takeHeld.heldPolicy = none := by
  rw [Slot.takeHeld]
  cases h : x.heldPolicy with
  | none => exact ⟨rfl, h⟩
  | some y => exact ⟨rfl, rfl⟩

theorem captureTakeHeld_none {c : CaptureUnit} (h : c.held = none) : c.takeHeld = c := by
  rw [CaptureUnit.takeHeld, h]

theorem captureTakeHeld_some {c : CaptureUnit} {y : CaptureSettings} (h : c.held = some y) :
    c.takeHeld = { c with settings := y, held := none, position := 0 } := by
  rw [CaptureUnit.takeHeld, h]
  rfl

theorem offloadTakeHeld_none {x : OffloadUnit} (h : x.held = none) : x.takeHeld = x := by
  rw [OffloadUnit.takeHeld, h]

theorem offloadTakeHeld_some {x : OffloadUnit} {y : OffloadSettings} (h : x.held = some y) :
    x.takeHeld = { x with settings := y, held := none, count := 0, accumulators := ⟨0, 0, 0, 0⟩ } := by
  rw [OffloadUnit.takeHeld, h]
  rfl

/-! ## The drive vector handed to the mirror (R34) -/

theorem handOver_idle {m : MirrorLink} (v : DriveVector) (h : m.activity = .idle) : handOver v m = { m with
      activity := .writing { vector := v, board := 0, extensions := 0, outcomes := Octet.fill .notWritten } .addressing
      line := [.address, .word 0] } := by
  rw [handOver, h]
  rfl

theorem handOver_waits {m : MirrorLink} (v : DriveVector) (h : m.activity ≠ .idle) (hp : m.pendingVector = none) :
    handOver v m = { m with pendingVector := some v } := by
  rw [handOver]
  split
  · next hidle => exact absurd hidle h
  · rw [hp]

theorem handOver_replaces {m : MirrorLink} {x : DriveVector} (v : DriveVector) (h : m.activity ≠ .idle)
    (hp : m.pendingVector = some x) : handOver v m = { m with
      pendingVector := some v
      latest := some { cycle := x.cycle, outcomes := Octet.fill .notWritten, skipped := true }
      counters := { m.counters with skipped := Counter.increase m.counters.skipped } } := by
  rw [handOver]
  split
  · next hidle => exact absurd hidle h
  · rw [hp]
    rfl

theorem handOver_keeps (v : DriveVector) (m : MirrorLink) :
    (handOver v m).settings = m.settings ∧ (handOver v m).held = m.held := by
  by_cases h : m.activity = .idle
  · rw [handOver_idle v h]
    exact ⟨rfl, rfl⟩
  · cases hp : m.pendingVector with
    | none => rw [handOver_waits v h hp]; exact ⟨rfl, rfl⟩
    | some x => rw [handOver_replaces v h hp]; exact ⟨rfl, rfl⟩

/-! ## The offload window (R38) -/

theorem addProjections_eq {x : OffloadSettings} {vec d : Cells 16} {count : Nat} {acc sums : Quad (BitVec 64)}
    (h : ∀ m : LinkId, sums.get m = if x.mask.getLsbD m.val then
      acc.get m + BitVec.ofInt 64 (((List.range count).map (fun a =>
        (storeWord .offloadvec vec (m.val * 1024 + a)).toInt * (d.at a).toInt)).sum) else acc.get m) :
    addProjections x vec d count acc = sums :=
  Quad.ext_get fun m => by
    rw [addProjections, Quad.get_tabulate, h]
    rfl

theorem offloadRecord_values {x : OffloadSettings} {sums : Quad (BitVec 64)} {values : Quad (BitVec 32)}
    (h : ∀ m : LinkId, values.get m = if x.mask.getLsbD m.val then
      BitVec.ofInt 32 (max (-2147483648) (min 2147483647 (((sums.get m).toInt + x.window * 16384) / (x.window * 32768))))
      else 0) (cycle : Counter) :
    offloadRecord x cycle sums = { cycle := cycle, window := x.window, mask := x.mask, values := values } := by
  rw [offloadRecord]
  congr 1
  refine Quad.ext_get fun m => ?_
  rw [Quad.get_tabulate, h, windowMean, saturate, min_comm]
  rfl

theorem offloadClose_off {s : State} (cycle : Counter) (h : s.offload.settings.window = 0) : offloadClose cycle s = s := by
  rw [offloadClose]
  exact if_pos h

theorem offloadClose_counts {s : State} {sums : Quad (BitVec 64)} (cycle : Counter)
    (h : s.offload.settings.window ≠ 0) (hc : s.offload.count + 1 < s.offload.settings.window)
    (hsums : addProjections s.offload.settings s.stores.active.offloadvec s.command.d s.command.actuatorCount
      s.offload.accumulators = sums) :
    (offloadClose cycle s).offload = { s.offload with accumulators := sums, count := s.offload.count + 1 } := by
  rw [offloadClose]
  dsimp only
  rw [if_neg h, if_neg (Nat.not_le.mpr hc), hsums]
  rfl

theorem offloadClose_latches {s : State} {sums : Quad (BitVec 64)} (cycle : Counter)
    (h : s.offload.settings.window ≠ 0) (hc : s.offload.settings.window ≤ s.offload.count + 1)
    (hsums : addProjections s.offload.settings s.stores.active.offloadvec s.command.d s.command.actuatorCount
      s.offload.accumulators = sums) :
    (offloadClose cycle s).offload = { s.offload with
      overwrites := if s.offload.fresh then Counter.increase s.offload.overwrites else s.offload.overwrites
      mailbox := some (offloadRecord s.offload.settings cycle sums)
      fresh := true
      count := 0
      accumulators := ⟨0, 0, 0, 0⟩ } := by
  rw [offloadClose]
  dsimp only
  rw [if_neg h, if_pos hc, hsums]
  rfl

/-! ## The telemetry record (R36) -/

theorem enabledSlopes_eq (slots : Quad Slot) (ls : List LinkId) : enabledSlopes slots ls =
    ((ls.filter (fun l => (slots.get l).enabled)).map (fun l => (slots.get l).slopeCount)).sum := by
  induction ls with
  | nil => rfl
  | cons l ls ih =>
    rw [enabledSlopes, ih, List.filter_cons]
    cases (slots.get l).enabled
    · exact Nat.zero_add _
    · rfl

theorem assembleRecord_eq (r : CycleRecord) (s : State) {body : List Word}
    (hbody : body = (if s.capture.settings.drive then (List.range s.command.actuatorCount).map s.command.d.at else []) ++
      (if s.capture.settings.residual then (List.range ((links.filter (fun l => (s.slots.get l).enabled)).map
        (fun l => (s.slots.get l).slopeCount)).sum).map s.engine.residuals.at else [])) :
    assembleRecord r s = (BitVec.ofNat 16 (24 + body.length) ||| (if s.capture.settings.drive then 0x4000 else 0) |||
      (if s.capture.settings.residual then 0x8000 else 0)) :: (r.words ++ body) := by
  rw [assembleRecord, telemetryRecord, residualSection, totalSlopes, enabledSlopes_eq, driveSection, hbody]
  cases s.capture.settings.drive <;> cases s.capture.settings.residual <;> rfl

/-- Which closes of the period a pattern captures. -/
theorem captures_iff {c : CapturePattern} {position period : Nat} {captured : Prop}
    (h : (c = .off ∧ period = 1 ∧ captured = False) ∨
      (∃ n, c = .every n ∧ period = n ∧ captured = (position = 0)) ∨
      (∃ m n, c = .burst m n ∧ period = n ∧ captured = (position < m)) ∨
      (∃ n bits, c = .mask n bits ∧ period = n ∧ captured = (bits.getLsbD position = true))) :
    c.length = period ∧ (c.captures position = true ↔ captured) := by
  rcases h with ⟨rfl, rfl, rfl⟩ | ⟨n, rfl, rfl, rfl⟩ | ⟨m, n, rfl, rfl, rfl⟩ | ⟨n, bits, rfl, rfl, rfl⟩
  · exact ⟨rfl, by simp [CapturePattern.captures]⟩
  · exact ⟨rfl, by simp [CapturePattern.captures]⟩
  · exact ⟨rfl, by simp [CapturePattern.captures]⟩
  · exact ⟨rfl, Iff.rfl⟩

theorem captureClose_eq {s : State} {r : CycleRecord} {record : List Word} {x : CaptureUnit} {period next : Nat}
    {captured : Prop} (hrecord : assembleRecord r s = record) (hlength : s.capture.settings.pattern.length = period)
    (hcaptures : s.capture.settings.pattern.captures s.capture.position = true ↔ captured)
    (hnext : next = if s.capture.position + 1 < period then s.capture.position + 1 else 0)
    (hx : (captured ∧ (s.capture.fifo.map List.length).sum + record.length ≤ 65536 ∧
        x = { s.capture with fifo := s.capture.fifo ++ [record], position := next }) ∨
      (captured ∧ 65536 < (s.capture.fifo.map List.length).sum + record.length ∧
        x = { s.capture with drops := Counter.increase s.capture.drops, position := next }) ∨
      (¬captured ∧ x = { s.capture with position := next })) :
    (captureClose r s).capture = x := by
  have hposition : s.capture.settings.pattern.next s.capture.position = next := by
    rw [CapturePattern.next, hlength, hnext]
  rw [captureClose, hrecord]
  dsimp only [State.onCapture]
  rw [hposition]
  rcases hx with ⟨hc, hroom, rfl⟩ | ⟨hc, hfull, rfl⟩ | ⟨hc, rfl⟩
  · rw [if_pos (hcaptures.mpr hc), CaptureUnit.offer]
    exact congrArg (fun t : CaptureUnit => { t with position := next }) (if_pos hroom)
  · rw [if_pos (hcaptures.mpr hc), CaptureUnit.offer]
    exact congrArg (fun t : CaptureUnit => { t with position := next }) (if_neg (Nat.not_le.mpr hfull))
  · rw [if_neg (fun h => hc (hcaptures.mp h))]

/-! ## The commit at the boundary -/

theorem takeTrip_command (c : PendingTrip) (s : State) : (takeTrip c s).command = s.command := by
  obtain ⟨-, -, -, -, -, -, -, -, hcommand, -⟩ := takeTrip_keeps c s
  exact hcommand

/-- The integrators are those of the close, unless a request opens the loop. -/
theorem pendingTaken_u {s : State} {w : WorkingSet} {o : OpenInfo} {info : CloseInfo}
    (h : s.loop.trip ≠ none ∨ ∀ r, s.loop.request = some r → r.target ≠ .opn) :
    (handResults w o info s).pendingTaken.command.u = (closeResult w).u := by
  obtain ⟨kloop, -, kcommand, -⟩ := takePendingApply_handResults w o info s
  have hu : (takePendingApply (handResults w o info s)).command.u = (closeResult w).u := by rw [kcommand]; rfl
  cases ht : s.loop.trip with
  | some c => rw [State.pendingTaken, takePendingLoop_trip (by rw [kloop, ht]), takeTrip_command, hu]
  | none =>
    cases hr : s.loop.request with
    | none => rw [State.pendingTaken, takePendingLoop_none (by rw [kloop, ht]) (by rw [kloop, hr]), hu]
    | some r =>
      have htarget := (h.resolve_left (not_not.mpr ht)) r hr
      rw [State.pendingTaken, takePendingLoop_request (by rw [kloop, ht]) (by rw [kloop, hr]), ← hu]
      cases hr' : r.target
      case opn => exact absurd hr' htarget
      all_goals rfl

theorem pendingTaken_opened {s : State} {w : WorkingSet} {o : OpenInfo} {info : CloseInfo} {p : PortId}
    (ht : s.loop.trip = none) (hr : s.loop.request = some { target := .opn, port := p }) :
    (handResults w o info s).pendingTaken.command.u = [] := by
  obtain ⟨kloop, -⟩ := takePendingApply_handResults w o info s
  rw [State.pendingTaken, takePendingLoop_request (by rw [kloop, ht]) (by rw [kloop, hr])]
  rfl

/-- A boundary that takes no stop leaves the loop running. -/
theorem pendingTaken_running {s : State} {w : WorkingSet} {o : OpenInfo} {info : CloseInfo} (hl : s.loop.loop ≠ .idle)
    (h : s.loop.trip ≠ none ∨ ∀ r, s.loop.request = some r → r.target ≠ .stop) :
    (handResults w o info s).pendingTaken.loop.loop ≠ .idle := by
  obtain ⟨kloop, -⟩ := takePendingApply_handResults w o info s
  cases ht : s.loop.trip with
  | some c =>
    rw [State.pendingTaken, takePendingLoop_trip (by rw [kloop, ht]), takeTrip]
    split
    · nofun
    · rw [State.onLoop_loop, kloop]
      exact hl
  | none =>
    cases hr : s.loop.request with
    | none => rwa [State.pendingTaken, takePendingLoop_none (by rw [kloop, ht]) (by rw [kloop, hr]), kloop]
    | some r =>
      have htarget := (h.resolve_left (not_not.mpr ht)) r hr
      rw [State.pendingTaken, takePendingLoop_request (by rw [kloop, ht]) (by rw [kloop, hr])]
      exact fun hidle => htarget ((loopState_idle_iff r.target).mp hidle)

theorem takePendingLoop_queue_mem {s : State} {e : EventRecord} {q : PortId} (h : e ∈ (s.ports.get q).queue) :
    e ∈ ((takePendingLoop s).ports.get q).queue := by
  cases ht : s.loop.trip with
  | some c =>
    rw [takePendingLoop_trip ht, takeTrip]
    split
    · exact post_queue_mem _ h
    · exact h
  | none =>
    cases hr : s.loop.request with
    | none => rwa [takePendingLoop_none ht hr]
    | some r =>
      rw [takePendingLoop_request ht hr, ((takeRequest_events r.target r.port s).1 q).1]
      exact post_queue_mem _ h

/-- The event of a full offload window is queued at every port with room. -/
theorem boundary_postsReady {s : State} {w : WorkingSet} {o : OpenInfo} {info : CloseInfo} {q : PortId}
    (h : s.offload.settings.window ≠ 0) (hc : s.offload.settings.window ≤ s.offload.count + 1)
    (hq : (s.ports.get q).queue.length < 16) :
    ⟨.offloadReady o.cycle s.offload.settings.window, s.manager.cycle, s.manager.timebase⟩ ∈
      ((boundary (handResults w o info s)).ports.get q).queue := by
  obtain ⟨-, hports, -⟩ := boundary_results (handResults w o info s)
  rw [hports, State.pendingTaken]
  refine takePendingLoop_queue_mem ?_
  rw [((takePendingApply_events _).1 q).1, ((handResults_events w o info s).1 q).1, State.readyEvents, if_pos ⟨h, hc⟩]
  exact post_queue_new _ hq

/-- Settles O25: the results of a close, the settings it takes, and the change of mode. -/
theorem closeComputationCommits : Obligations.CloseComputationCommits := by
  rintro s w o info rec h hw ho hinfo rfl
  obtain ⟨hmanager, hslots, hprobe, hline, -, hmirror, hcapture, hoffload, hdrive, hcount⟩ := atBoundary s w o.opened info
  obtain ⟨bloop, bports, bstores, bu, bd, bcount, bmirror, blast⟩ := boundary_results (handResults w o.opened info s)
  obtain ⟨bcapture, boffload⟩ := boundary_outputs (handResults w o.opened info s)
  obtain ⟨mslots, mprobe, mtiming, munopened⟩ := mayOpen_boundary (handResults w o.opened info s)
  have hu := pendingTaken_u (s := s) (w := w) (o := o.opened) (info := info)
  have hopened := fun p => pendingTaken_opened (s := s) (w := w) (o := o.opened) (info := info) (p := p)
  have hready := fun q => boundary_postsReady (s := s) (w := w) (o := o.opened) (info := info) (q := q)
  have hrunning := pendingTaken_running (s := s) (w := w) (o := o.opened) (info := info)
  refine ⟨_, exec_closeComputationEnd h hw ho hinfo, ?_⟩
  have hsettled : boundary (handResults w o.opened info s) =
      leaveBoundary (takeHeldTiming (takeHeldOthers (handResults w o.opened info s).pendingTaken)) := rfl
  generalize hbu : (handResults w o.opened info s).pendingTaken = u at *
  generalize boundary (handResults w o.opened info s) = t at *
  rw [bd, hdrive, bu, bcount, hcount, blast, hmanager, bmirror, mirrorTakeHeld_eq, hmirror, bcapture, hcapture, boffload,
    hoffload]
  obtain ⟨osettings, oheld⟩ := handOver_keeps (closedVector (closeResult w) w o.opened.cycle) s.mirror
  refine ⟨rfl, hu, fun ht p hr a => by rw [hopened p ht hr]; rfl, rfl, CycleRecord.words_laidOut (closeRecord w o.opened info), rfl, fun hi => ?_,
    fun hb => ?_, fun x hx => ?_, fun hw0 hc q hq => hready q hw0 hc hq, fun x period next captured body record hpat hnext hbody hrec hx => ?_,
    fun l => ⟨?_, ?_, fun hnone => ?_⟩, ?_, ?_, fun hnone => ?_, ?_, ?_, ?_, ?_, ?_⟩
  · rw [handOver_idle _ hi]
    exact ⟨rfl, rfl⟩
  · cases hp : s.mirror.pendingVector with
    | none =>
      rw [handOver_waits _ hb hp]
      exact ⟨rfl, rfl, fun _ => ⟨rfl, rfl⟩, nofun⟩
    | some y =>
      rw [handOver_replaces _ hb hp]
      exact ⟨rfl, rfl, nofun, fun v hv => by cases hv; exact ⟨rfl, rfl⟩⟩
  · have hclosed : (offloadClose o.opened.cycle (s.committed w o.opened)).offload = x ∧ x.held = s.offload.held := by
      rcases hx with ⟨hw0, rfl⟩ | ⟨hw0, sums, hsums, ⟨hc, rfl⟩ | ⟨hc, values, hvalues, rfl⟩⟩
      · rw [offloadClose_off (s := s.committed w o.opened) _ hw0]
        exact ⟨rfl, rfl⟩
      · exact ⟨offloadClose_counts (s := s.committed w o.opened) _ hw0 hc (addProjections_eq hsums), rfl⟩
      · have hrecord : offloadRecord (s.committed w o.opened).offload.settings o.opened.cycle sums = _ :=
          offloadRecord_values hvalues _
        rw [offloadClose_latches (s := s.committed w o.opened) _ hw0 hc (addProjections_eq hsums), hrecord]
        exact ⟨rfl, rfl⟩
    rw [hclosed.1]
    cases hheld : s.offload.held with
    | none => exact offloadTakeHeld_none (hclosed.2.trans hheld)
    | some y => exact offloadTakeHeld_some (hclosed.2.trans hheld)
  · have hclosed : (captureClose (closeRecord w o.opened info)
        (offloadClose o.opened.cycle (s.committed w o.opened))).capture = x ∧ x.held = s.capture.held := by
      obtain ⟨vslots, -, vcapture, -⟩ := offloadClose_rest o.opened.cycle (s.committed w o.opened)
      obtain ⟨-, -, -, -, vcommand, -, -, vengine, -⟩ := offloadClose_keepsOthers o.opened.cycle (s.committed w o.opened)
      obtain ⟨hlength, hcaptures⟩ := captures_iff hpat
      generalize offloadClose o.opened.cycle (s.committed w o.opened) = v at *
      have hcap : v.capture = s.capture := vcapture
      refine ⟨captureClose_eq (period := period) (next := next) (captured := captured) (record := record) ?_
        (by rw [hcap, hlength]) (by rw [hcap]; exact hcaptures) (by rw [hcap]; exact hnext) (by rw [hcap]; exact hx), ?_⟩
      · rw [hrec, assembleRecord_eq (body := body), hcap]
        · rfl
        · rw [hbody, hcap, vslots, vcommand, vengine]
          rfl
      · rcases hx with ⟨-, -, rfl⟩ | ⟨-, -, rfl⟩ | ⟨-, rfl⟩ <;> rfl
    rw [hclosed.1]
    cases hheld : s.capture.held with
    | none => exact captureTakeHeld_none (hclosed.2.trans hheld)
    | some y => exact captureTakeHeld_some (hclosed.2.trans hheld)
  · rw [(mslots l).1, ← hslots, ← (slotTakeHeld_eq (u.slots.get l)).1]
    exact congrArg Slot.policy (Quad.get_map Slot.takeHeld u.slots l)
  · rw [(mslots l).2, ← (slotTakeHeld_eq (u.slots.get l)).2]
    exact congrArg Slot.heldPolicy (Quad.get_map Slot.takeHeld u.slots l)
  · obtain ⟨-, hkept, -⟩ := munopened hnone
    have hslot : t.slots.get l = (s.slots.get l).takeHeld := by
      rw [hkept, ← hslots]
      exact Quad.get_map Slot.takeHeld u.slots l
    rw [hslot, Slot.takeHeld]
    cases (s.slots.get l).heldPolicy <;> rfl
  · rw [mprobe.1, ← hprobe]
    exact (probeTakeHeld_eq u.probe).1
  · rw [mprobe.2]
    exact (probeTakeHeld_eq u.probe).2.1
  · obtain ⟨-, -, hkept⟩ := munopened hnone
    rw [hkept, ← hprobe]
    exact (probeTakeHeld_eq u.probe).2.2
  · rw [osettings, oheld]
  · rfl
  · rw [mtiming.1]
    change u.manager.held.getD u.manager.settings = _
    rw [hmanager]
  · rw [mtiming.2]
    rfl
  · intro x hclosing hheld hmode hm hl hno
    have hum : u.manager.state = .closing ∧ u.manager.held = some x ∧ x.mode ≠ u.manager.settings.mode := by
      rw [hmanager]
      exact ⟨hclosing, hheld, hmode⟩
    have hchange := leaveBoundary_changesMode (s := takeHeldOthers u) hum.1 hum.2.1 hum.2.2 (hline.symm ▸ hm)
      (hrunning hl hno)
    rw [← hsettled, show (takeHeldOthers u).manager = u.manager from rfl, hmanager] at hchange
    exact hchange

end Sys2Proof.Machine

/-!
SUPPORT. The opening of a cycle: the triggers, the fallback and the lead frame, and the openings at a boundary.
-/
namespace Sys2Proof.Machine

/-! ## The six ways a cycle opens (R12) -/

/-- What an event that opens a cycle has left alone when the opening starts. -/
structure KeptForOpening (s u : State) : Prop where
  slots : u.slots = s.slots
  settings : u.manager.settings = s.manager.settings
  cycle : u.manager.cycle = s.manager.cycle
  timebase : u.manager.timebase = s.manager.timebase
  engine : u.engine = s.engine
  stores : u.stores = s.stores
  command : u.command = s.command
  loop : u.loop = s.loop
  probe : u.probe = s.probe
  mirror : u.mirror = s.mirror
  ports : u.ports = s.ports
  capture : u.capture = s.capture
  offload : u.offload = s.offload

theorem exec_opens_of_edge {s : State} {c : Instr} {level : Bool} (h : s.resetActs = false)
    (harmed : s.manager.state = .armed) (hmode : s.manager.settings.mode = .line) (hdelay : s.manager.settings.delay = 0)
    (hrun : s.manager.lineDelay = none) (hedge : s.manager.settings.edge = .rising ↔ level = true)
    (hf : s.line.filtered = !level) (hcomes : EdgeComes s c level) :
    exec c s = .next (openCycle .line false (s.atLevel level)) := by
  have hpass : filteredEdge level (s.atLevel level) = passEdge (s.atLevel level) :=
    filteredEdge_selected (s := s.atLevel level) (selects_eq_true hedge) hmode
      (show s.manager.state ≠ .idle by rw [harmed]; nofun)
  rw [exec_of_edgeComes h hf hcomes, hpass, passEdge_triggers (s := s.atLevel level) hrun hdelay,
    produceTrigger_armed (s := s.atLevel level) .line harmed]
  rfl

theorem exec_fallbackExpiry {s : State} (h : s.resetActs = false) (harmed : s.manager.state = .armed)
    (hdue : s.manager.fallback = some 0) : exec .fallbackExpiry s = .next (openCycle .fallback false
      (s.onManagerCounters (fun c => { c with fallbackOpens := Counter.increase c.fallbackOpens }))) := by
  refine (exec_running _ h).trans (congrArg Host.Outcome.next (if_pos ?_))
  rw [hdue, harmed]
  rfl

/-- The frame that opens a cycle as its lead is attached by the opening and stays. -/
theorem acceptData_leads {s u : State} {l : LinkId} {f : RxFrame} (harmed : s.manager.state = .armed)
    (hmode : s.manager.settings.mode = .lead) (hlead : s.manager.settings.leadSlot = l)
    (hen : (s.slots.get l).enabled = true) (hm : (s.slots.get l).muted = false) (hfifo : (s.receivers.get l).fifo = [])
    (hu : s.staged l f = u) : acceptData l f s = openCycle .lead false u := by
  have hufifo : (u.receivers.get l).fifo = [newEntry f] := by rw [← hu, staged_fifo, hfifo, List.nil_append]
  have huslots : u.slots = s.slots := by rw [← hu]; rfl
  have humanager : u.manager = s.manager := by rw [← hu]; rfl
  have hcondition : leadCondition u = true := by
    refine leadCondition_eq_true.mpr ⟨by rw [humanager, hmode], by rw [humanager, harmed], ?_, ?_⟩
    · rw [humanager, hlead, huslots, hm]
    · rw [humanager, hlead, hufifo]
      nofun
  have hexpects : u.expects l := by
    rw [State.expects, huslots, humanager]
    exact ⟨hen, hm, .inr ⟨hmode, hlead⟩⟩
  obtain ⟨o, ho, -⟩ := openCycle_spec .lead false u
  obtain ⟨-, -, -, hattached⟩ := openCycle_statuses .lead false u o ho
  obtain ⟨-, -, -, hhead, -⟩ := hattached l (newEntry f) [] hexpects hufifo rfl
  have hfirst := hhead rfl
  rw [acceptData_running l f (by rw [harmed]; nofun), hu, evalLead, if_pos hcondition,
    offerHead_attachedHead hfirst rfl, applyOutOfCycle_attached]
  rw [hfirst]
  rfl

theorem exec_opens_of_lead {s : State} {l : LinkId} {w : Word} {window : List Bool} {good : Bool} {f : RxFrame}
    (h : s.resetActs = false) (harmed : s.manager.state = .armed) (hmode : s.manager.settings.mode = .lead)
    (hlead : s.manager.settings.leadSlot = l) (hen : (s.slots.get l).enabled = true)
    (hm : (s.slots.get l).muted = false) (hd : (s.receivers.get l).decoder = .locked window good)
    (hf : (s.receivers.get l).reception = .header f) (ht : f.taken = 2) (hkind : f.word0.extractLsb' 8 8 = 1)
    (htag : f.word0.extractLsb' 0 8 = f.tag) (hlength : w.toNat = f.slopeCount) (hfifo : (s.receivers.get l).fifo = []) :
    exec (.linkDataSymbol l w) s = .next (openCycle .lead false (s.onReceiver l (fun r => { r with
      decoder := .locked ((false :: window).take 16) good
      reception := .storing { f with taken := 3, crc := crcStep f.crc w, word2 := w }
      receivedSeq := f.sequence
      fifo := [{ sequence := f.sequence, attached := false, verified := false, groups := [], taken := 0 }] }))) := by
  set g : RxFrame := { f with taken := 3, crc := crcStep f.crc w, word2 := w } with hg
  have hdata : g.isData = true := g.isData_iff.mpr hkind
  have hstaged : (s.withDecoder l (.locked ((false :: window).take 16) good)).staged l g = s.onReceiver l (fun r =>
      { r with
        decoder := .locked ((false :: window).take 16) good
        reception := .storing g
        receivedSeq := f.sequence
        fifo := [{ sequence := f.sequence, attached := false, verified := false, groups := [], taken := 0 }] }) := by
    rw [State.staged, withDecoder_onReceiver]
    refine onReceiver_congr s l _ _ ?_
    rw [hfifo]
    rfl
  rw [exec_headerEnd h hd hf ht, takeHeader_data l _ (g.not_kindFails_iff.mpr (.inl hkind)) htag hdata hlength]
  exact congrArg _ (acceptData_leads harmed hmode hlead hen hm (by rwa [State.withDecoder_receiver]) hstaged)

/-! ## The record of an opening -/

theorem openedInfo_eq {s u : State} (h : KeptForOpening s u) (c : OpenCause) (b : Bool) : (newRecord c b u).opened =
    { cycle := if s.manager.cycle = 4294967295 then 1 else s.manager.cycle + 1, cause := c, lateStart := b,
      time := s.manager.timebase, loop := s.loop.loop, generation := s.stores.generation,
      settings :=
        { actuatorCount := s.command.actuatorCount
          slots := s.slots.map (fun x =>
            { enabled := x.enabled, tag := x.tag, slopeCount := x.slopeCount, policy := x.policy })
          timing := s.manager.settings, probe := s.probe.mode, mirror := s.mirror.settings
          capture := s.capture.settings, offload := s.offload.settings } } := by
  rw [newRecord, State.settingsInForce, h.slots, h.settings, h.cycle, h.timebase, h.stores, h.command, h.loop, h.probe,
    h.mirror, h.capture, h.offload, nextCycle_eq]
  rfl

theorem advance_eq (x : Slot) : x.advance = { x with
    cadence := if x.enabled then (if x.cadence = 0 then x.policy.divisor - 1 else x.cadence - 1) else x.cadence } := by
  rw [Slot.advance]
  by_cases h : x.enabled = true
  · rw [if_pos h, if_pos h]
  · rw [if_neg h, if_neg h]

/-- The six events that open a cycle from ARMED: the command, the cause, and the state in which the opening starts. -/
def OpeningEvent (s : State) (c : Instr) (cause : OpenCause) (u : State) : Prop :=
  (c = .lineDelayExpiry ∧ cause = .line ∧ s.manager.lineDelay = some 0 ∧
      u = { s with manager := { s.manager with lineDelay := none } }) ∨
    (c = .timingLineChange ∧ cause = .line ∧ s.manager.settings.mode = .line ∧ s.manager.settings.filter = .off ∧
      s.manager.settings.delay = 0 ∧ s.manager.lineDelay = none ∧ s.line.raw = s.line.filtered ∧
      (s.manager.settings.edge = .rising ↔ s.line.raw = false) ∧
      u = { s with line := { raw := !s.line.raw, filtered := !s.line.raw, measuring := none } }) ∨
    (c = .lineFilterExpiry ∧ cause = .line ∧ s.manager.settings.mode = .line ∧ s.manager.settings.delay = 0 ∧
      s.manager.lineDelay = none ∧ s.line.measuring = some 0 ∧ s.line.filtered = !s.line.raw ∧
      (s.manager.settings.edge = .rising ↔ s.line.raw = true) ∧
      u = { s with line := { raw := s.line.raw, filtered := s.line.raw, measuring := none } }) ∨
    (c = .periodExpiry ∧ cause = .timer ∧ s.manager.period = some 0 ∧
      u = { s with manager := { s.manager with period := some s.manager.settings.period } }) ∨
    (c = .fallbackExpiry ∧ cause = .fallback ∧ s.manager.fallback = some 0 ∧
      u = { s with manager := { s.manager with counters := { s.manager.counters with
        fallbackOpens := Counter.increase s.manager.counters.fallbackOpens } } }) ∨
    (∃ l w window good f, c = .linkDataSymbol l w ∧ cause = .lead ∧ s.manager.settings.mode = .lead ∧
      s.manager.settings.leadSlot = l ∧ (s.slots.get l).enabled = true ∧ (s.slots.get l).muted = false ∧
      (s.receivers.get l).decoder = .locked window good ∧ (s.receivers.get l).reception = .header f ∧ f.taken = 2 ∧
      f.word0.extractLsb' 8 8 = 1 ∧ f.word0.extractLsb' 0 8 = f.tag ∧ w.toNat = f.slopeCount ∧
      (s.receivers.get l).fifo = [] ∧
      u = s.onReceiver l (fun r =>
        { r with
          decoder := .locked ((false :: window).take 16) good
          reception := .storing { f with taken := 3, crc := crcStep f.crc w, word2 := w }
          receivedSeq := f.sequence
          fifo := [{ sequence := f.sequence, attached := false, verified := false, groups := [], taken := 0 }] }))

/-- The six ways: the state in which the opening starts. -/
theorem exec_opens {s u : State} {c : Instr} {cause : OpenCause} (h : s.resetActs = false)
    (harmed : s.manager.state = .armed)
    (hc : OpeningEvent s c cause u) :
    exec c s = .next (openCycle cause false u) ∧ KeptForOpening s u := by
  rcases hc with ⟨rfl, rfl, hdue, rfl⟩ | ⟨rfl, rfl, hmode, hoff, hdelay, hrun, hraw, hedge, rfl⟩ |
    ⟨rfl, rfl, hmode, hdelay, hrun, hdue, hfiltered, hedge, rfl⟩ | ⟨rfl, rfl, hdue, rfl⟩ | ⟨rfl, rfl, hdue, rfl⟩ |
    ⟨l, w, window, good, f, rfl, rfl, hmode, hlead, hen, hm, hd, hf, ht, hkind, htag, hlength, hfifo, rfl⟩
  · refine ⟨?_, rfl, rfl, rfl, rfl, rfl, rfl, rfl, rfl, rfl, rfl, rfl, rfl, rfl⟩
    rw [exec_lineDelayExpiry h hdue]
    exact congrArg _ (produceTrigger_armed (s := s.onManager _) .line harmed)
  · refine ⟨?_, rfl, rfl, rfl, rfl, rfl, rfl, rfl, rfl, rfl, rfl, rfl, rfl, rfl⟩
    refine exec_opens_of_edge (level := !s.line.raw) h harmed hmode hdelay hrun (by simpa using hedge) ?_
      (.inl ⟨rfl, hoff, by simp⟩)
    rw [← hraw, Bool.not_not]
  · refine ⟨?_, rfl, rfl, rfl, rfl, rfl, rfl, rfl, rfl, rfl, rfl, rfl, rfl, rfl⟩
    exact exec_opens_of_edge (level := s.line.raw) h harmed hmode hdelay hrun hedge hfiltered (.inr ⟨rfl, hdue, rfl⟩)
  · refine ⟨?_, rfl, rfl, rfl, rfl, rfl, rfl, rfl, rfl, rfl, rfl, rfl, rfl, rfl⟩
    rw [exec_periodExpiry h hdue]
    exact congrArg _ (produceTrigger_armed (s := s.onManager _) .timer harmed)
  · exact ⟨exec_fallbackExpiry h harmed hdue, rfl, rfl, rfl, rfl, rfl, rfl, rfl, rfl, rfl, rfl, rfl, rfl, rfl⟩
  · exact ⟨exec_opens_of_lead h harmed hmode hlead hen hm hd hf ht hkind htag hlength hfifo,
      rfl, rfl, rfl, rfl, rfl, rfl, rfl, rfl, rfl, rfl, rfl, rfl, rfl⟩

/-! ## An opening at a boundary (R12) -/

/-- A boundary that goes on running, with no timing settings held, enters ARMED from the settings it took. -/
theorem boundary_runs {s : State} (hl : s.pendingTaken.loop.loop ≠ .idle) (hh : s.pendingTaken.manager.held = none) :
    boundary s = enterArmed (takeHeldOthers s.pendingTaken) := by
  have htaken : takeHeldTiming (takeHeldOthers s.pendingTaken) = takeHeldOthers s.pendingTaken := by
    rw [takeHeldTiming]
    change (match s.pendingTaken.manager.held with | none => _ | some t => _) = _
    rw [hh]
  rw [boundary_eq, takeHeldSettings_eq, htaken, leaveBoundary]
  exact if_neg hl

theorem takeHeld_muted (x : Slot) : x.takeHeld.muted = x.muted := by
  rw [Slot.takeHeld]
  cases x.heldPolicy <;> rfl

/-- The settings, the loop and the generation a cycle opens with are those after the opening. -/
theorem openCycle_infoAfter (c : OpenCause) (b : Bool) (s : State) : (newRecord c b s).opened =
    { cycle := nextCycle s.manager.cycle, cause := c, lateStart := b, time := s.manager.timebase,
      loop := (openCycle c b s).loop.loop, generation := (openCycle c b s).stores.generation,
      settings := (openCycle c b s).settingsInForce } := by
  obtain ⟨hsettings, hstores⟩ := openCycle_settings c b s
  obtain ⟨-, -, -, -, -, -, hloop, -⟩ := openCycle_spec c b s
  rw [hsettings, hstores, hloop]
  rfl

/-- A trigger latched opens a cycle on entering ARMED, as a late start. -/
theorem enterArmed_lateStart {s : State} {c : LatchedCause} (h : s.manager.latch = some c) :
    ∃ t o, enterArmed s = t ∧ t.manager.openRecord = some o ∧
      o.opened =
        { cycle := nextCycle s.manager.cycle, cause := c.openCause, lateStart := true, time := s.manager.timebase,
          loop := t.loop.loop, generation := t.stores.generation, settings := t.settingsInForce } ∧
      t.manager.cycle = nextCycle s.manager.cycle ∧ (t.manager.state = .gathering ∨ t.manager.state = .closing) ∧
      t.manager.latch = none ∧ t.manager.counters = { s.manager.counters with
        lateStarts := Counter.increase s.manager.counters.lateStarts } := by
  set v := (s.onManager (fun m => { m with state := .armed, latch := none })).onManagerCounters
    (fun c => { c with lateStarts := Counter.increase c.lateStarts }) with hv
  have hvm : v.manager = { s.manager with
      state := .armed
      latch := none
      counters := { s.manager.counters with lateStarts := Counter.increase s.manager.counters.lateStarts } } := rfl
  obtain ⟨o, ho, hopened, -, -, -, -, -, -, hopen, -⟩ := openCycle_spec c.openCause true v
  rw [openCycle_infoAfter, hvm] at hopened
  rw [hvm] at hopen
  refine ⟨_, o, enterArmed_latched h, ho, hopened, ?_, openCycle_state _ _ _, ?_, ?_⟩ <;> rw [← hv, hopen]

/-- A lead frame opens a cycle on entering ARMED with no trigger latched. -/
theorem enterArmed_opensLead {s : State} (h : s.manager.latch = none) (hmode : s.manager.settings.mode = .lead)
    (hm : (s.slots.get s.manager.settings.leadSlot).muted = false)
    (hfifo : (s.receivers.get s.manager.settings.leadSlot).fifo ≠ []) :
    ∃ t o, enterArmed s = t ∧ t.manager.openRecord = some o ∧ o.opened.cause = .lead ∧ o.opened.lateStart = false ∧
      o.opened.time = s.manager.timebase ∧ t.manager.fallback = none ∧ t.manager.counters = s.manager.counters ∧
      t.manager.cycle = nextCycle s.manager.cycle := by
  obtain ⟨o, ho, hopened, -, -, -, -, -, -, hopen, -⟩ :=
    openCycle_spec .lead false (s.onManager (fun m => { m with state := .armed }))
  refine ⟨_, o, enterArmed_lead h (leadCondition_eq_true.mpr ⟨hmode, rfl, hm, hfifo⟩), ho, by rw [hopened]; rfl,
    by rw [hopened]; rfl, by rw [hopened]; rfl, ?_, ?_, ?_⟩ <;> rw [hopen] <;> rfl

/-- Settles O11: the openings from ARMED, and those of the boundary. -/
theorem triggerOpensCycle : Obligations.TriggerOpensCycle := by
  refine ⟨fun s u c cause h harmed hc => ?_, fun s w o info h hw ho hinfo hl hno hheld => ?_⟩
  · obtain ⟨hrun, hkept⟩ := exec_opens h harmed hc
    obtain ⟨o, ho, hopened, hslots, hresiduals, hheld, hloop, hports, hline, hmanager, hgathers, hcloses⟩ :=
      openCycle_spec cause false u
    obtain ⟨hclosing, hnone, hwaits, hattaches⟩ := openCycle_statuses cause false u o ho
    obtain ⟨-, -, hstores, hmirror, hcapture, hoffload, hu, hd, -⟩ := openCycle_keeps cause false u
    have hexpects : ∀ l, s.expects l ↔ u.expects l := fun l => by rw [State.expects, State.expects, hkept.slots, hkept.settings]
    rw [openedInfo_eq hkept] at hopened
    generalize openCycle cause false u = t at *
    refine ⟨t, o, hrun, ho, hopened, ?_, hline, fun l => ?_, fun j => by rw [hresiduals]; rfl, fun ⟨l, hl⟩ => ?_,
      fun hne => ?_, fun l hl => hnone l (by rwa [← hexpects]), fun l hl hfifo => hwaits l ((hexpects l).mp hl) hfifo,
      fun l e rest hl hfifo ha => ?_, by rw [hheld, hkept.engine], by rw [hloop, hkept.loop], by rw [hstores, hkept.stores],
      by rw [hports, hkept.ports], by rw [hmirror, hkept.mirror], by rw [hcapture, hkept.capture],
      by rw [hoffload, hkept.offload], by rw [hu, hkept.command], by rw [hd, hkept.command]⟩
    · rw [hopened, ← nextCycle_eq, ← hkept.cycle]
      exact hmanager
    · rw [hslots, Quad.get_map, hkept.slots, advance_eq]
    · obtain ⟨hstate, hdeadline, hopen, hcommand, hprobe⟩ := hgathers ⟨l, (hexpects l).mp hl⟩
      exact ⟨hstate, by rw [hdeadline, hkept.settings], hopen, by rw [hcommand, hkept.command], by rw [hprobe, hkept.probe]⟩
    · have hne' : ¬ ∃ l, u.expects l := fun ⟨l, hl⟩ => hne ⟨l, (hexpects l).mpr hl⟩
      obtain ⟨hstate, hdeadline, -, -, hreceivers⟩ := hcloses fun l hl => hne' ⟨l, hl⟩
      obtain ⟨x, hx, hcause, htime, hstarts, hslot⟩ := hclosing hne'
      refine ⟨hstate, hdeadline, hreceivers, x, hx, hcause, by rw [htime, hkept.timebase], ?_, fun l => ?_⟩
      · rw [← hkept.loop]
        exact startsComputation_congr hkept.probe hkept.command hkept.stores hstarts
      · rw [← hkept.slots]
        exact hslot l
    · obtain ⟨hstatus, hsequence, hrecord, -, hfresh⟩ := hattaches l e rest ((hexpects l).mp hl) hfifo ha
      exact ⟨hstatus, hsequence, by rw [hrecord, hkept.slots], hfresh⟩
  · obtain ⟨hmanager, hslots, -, -, hreceivers, -⟩ := atBoundary s w o.opened info
    have hruns := boundary_runs (s := handResults w o.opened info s) (pendingTaken_running hl hno)
      (by rw [hmanager]; exact hheld)
    refine ⟨_, exec_closeComputationEnd h hw ho hinfo, ?_⟩
    rw [hruns]
    generalize (handResults w o.opened info s).pendingTaken = u at *
    have hvslots : ∀ l, ((takeHeldOthers u).slots.get l).muted = (s.slots.get l).muted := fun l => by
      rw [← hslots]
      exact (congrArg Slot.muted (Quad.get_map Slot.takeHeld u.slots l)).trans (takeHeld_muted _)
    have hvmanager : (takeHeldOthers u).manager = _ := hmanager
    have hvreceivers : (takeHeldOthers u).receivers = s.receivers := hreceivers
    generalize takeHeldOthers u = v at *
    have hvsettings : v.manager.settings = s.manager.settings := by rw [hvmanager]
    have hvlatch : v.manager.latch = s.manager.latch := by rw [hvmanager]
    refine ⟨fun c hc => ?_, fun hc hmode => ⟨fun hm hfifo => ?_, fun hwait => ?_⟩, fun hc hmode => ?_⟩
    · obtain ⟨t, o', ht, ho', hopened, hcycle, hstate, hlatch, hcounters⟩ := enterArmed_lateStart (hvlatch.trans hc)
      rw [hvmanager] at hopened hcycle hcounters
      rw [ht]
      refine ⟨o', ho', ?_, by rw [hcycle, hopened], hstate, hlatch, hcounters⟩
      rw [hopened]
      cases c <;> rfl
    · obtain ⟨t, o', ht, ho', hcause, hlate, htime, hfallback, hcounters, hcycle⟩ :=
        enterArmed_opensLead (hvlatch.trans hc) (hvsettings ▸ hmode) (by rw [hvsettings, hvslots, hm])
          (by rwa [hvsettings, hvreceivers])
      rw [hvmanager] at htime hcounters hcycle
      rw [ht]
      exact ⟨o', ho', hcause, hlate, htime, hfallback, hcounters, hcycle⟩
    · rw [enterArmed_waits (hvlatch.trans hc) (.inr (by rwa [hvsettings, hvslots, hvreceivers])), State.onManager_manager,
        hvmanager]
      simp [hmode]
    · rw [enterArmed_waits (hvlatch.trans hc) (.inl (by rwa [hvsettings])), State.onManager_manager, hvmanager]
      simp [hmode]

end Sys2Proof.Machine
